-- ==== Sys2Proof/Word.lean ====
section
/-! DEFINITION. Word.lean: the widths of the quantities the spec gives bits to (chapter 12), and nothing else. -/

namespace Sys2Proof

/-- A byte of a telegram; bit 7 is its most significant bit (00_scope, Conventions). -/
abbrev Byte := BitVec 8

/-- A two-byte quantity: a generation, a detail, a shared word, a refill period (R163). -/
abbrev Half := BitVec 16

/-- A tally or port counter, 0..4,294,967,295 (R20, R111). -/
abbrev Count := BitVec 32

/-- A set of tally groups: bit g is group g (R205). -/
abbrev GroupSet := BitVec 32

/-- A tag, 0..63 (R3). -/
abbrev Tag := BitVec 6

/-- A moment on the gate's clock, in quarter microseconds (log entry 6). -/
abbrev Moment := Nat

/-- A tally group's number, 0..31 (R111). -/
abbrev Group := Fin 32

/-- A rule entry's index in its bank, 0..127 (R21). -/
abbrev RuleIndex := Fin 128

end Sys2Proof
end

