-- ==== Sys2Proof/Vocabulary.lean ====
section
/-! DEFINITION. Vocabulary.lean: the spec's fixed sets of names and the small records that commands carry. -/

namespace Sys2Proof

/-- The two line ports (00_scope, Ports, directions and queues). -/
inductive Port where
  /-- Port C, facing the controller segment. -/
  | c
  /-- Port F, facing the field segment. -/
  | f
deriving DecidableEq, Repr

/-- The port opposite. -/
def Port.other : Port → Port
  | .c => .f
  | .f => .c

/-- The two rule banks (R26). -/
inductive Bank where
  | a
  | b
deriving DecidableEq, Repr

/-- The other bank. -/
def Bank.other : Bank → Bank
  | .a => .b
  | .b => .a

/-- Downward: arriving at Port C and leaving at Port F; upward: the reverse (R23). -/
inductive Direction where
  | downward
  | upward
deriving DecidableEq, Repr

/-- The direction of a telegram that arrived at a port (R9). -/
def Port.direction : Port → Direction
  | .c => .downward
  | .f => .upward

/-- The six kinds of telegram (R3). -/
inductive Kind where
  | poll
  | reply
  | note
  | sync
  | order
  | answer
deriving DecidableEq, Repr

/-- Requester, responder and tag: the key of an exchange (R43). -/
structure Key where
  requester : Byte
  responder : Byte
  tag : Tag
deriving DecidableEq, Repr

/-- The levels of the strap pins: eight station straps, STN7 most significant, and the rate straps RTS1 RTS0 (R194). -/
structure Straps where
  stn : Byte
  rts : BitVec 2
deriving DecidableEq, Repr

/-- A stored item that carries a check code (R28, R68, R116, R117). -/
inductive StoreItem where
  | rule (bank : Bank) (i : RuleIndex)
  | exchange (slot : Fin 64)
  | tally (g : Group)
  | snapshot (g : Group)
deriving DecidableEq, Repr

/-- What happened outside the gate since the command before: the time that passed, in quarter microseconds, the stored items
whose check codes went wrong, and the strap pins' new levels if they changed. The table has no row for any of the three
(log entries 2, 3 and 4: DESIGN CHOICE). -/
structure Since where
  elapsed : Nat
  upsets : List StoreItem
  straps : Option Straps
deriving DecidableEq, Repr

/-- Nothing passed and nothing changed. -/
def Since.now : Since := { elapsed := 0, upsets := [], straps := none }

/-- Who sends an order: the order telegram's source and tag (R145). -/
structure OrderHead where
  source : Byte
  tag : Tag
deriving DecidableEq, Repr

end Sys2Proof
end

