-- ==== Sys2Proof/Syntax.lean ====
section
/-! DEFINITION. Syntax.lean: the commands the gate takes, one constructor per row of spec/opcode_table.json, in the table's order.
An order row is the whole frame-end event at which intake delivers that order (R142; log entry 8). -/

namespace Sys2Proof

/-- A command: one event of spec/opcode_table.json. Its first operand says what happened outside since the command before. -/
inductive Instr where
  /-- FRAME_END: the frame being assembled at `p` ends; `rest` is its bytes after the first, which FRAME_BEGIN carried (R2; log entry 9). -/
  | frameEnd (w : Since) (p : Port) (rest : List Byte)
  /-- TRANSMIT_COMPLETION: port `p` finishes the telegram it is sending and its idle gap (R17). -/
  | transmitCompletion (w : Since) (p : Port)
  /-- LINE_LOSS: the signal absence timed at `p` reaches 5 ms (R11, R13). -/
  | lineLoss (w : Since) (p : Port)
  /-- LINE_RETURN: the signal presence timed at `p` reaches 2 ms (R11, R12). -/
  | lineReturn (w : Since) (p : Port)
  /-- DEADLINE_EXPIRY: the open exchange with key `k` reaches its deadline (R58). -/
  | deadlineExpiry (w : Since) (k : Key)
  /-- PERIOD_EXPIRY: the refill period of profile `n` ends (R74). -/
  | periodExpiry (w : Since) (n : Fin 16)
  /-- VALIDATION_COMPLETE: the validation of the commit in flight ends (R94, R95). -/
  | validationComplete (w : Since)
  /-- RESTART_TIME_LIMIT: 20 ms have passed since the pending RESTART was executed (R201). -/
  | restartTimeLimit (w : Since)
  /-- POWER_ON: power-up, or RESET_N goes high (R202). -/
  | powerOn (w : Since)
  /-- RESET_ASSERTED: RESET_N goes low and is held low (R202). -/
  | resetAsserted (w : Since)
  /-- STARTING_END: the store check ends and STARTING with it (R196). -/
  | startingEnd (w : Since)
  /-- UNKNOWN_ORDER: the frame end of an order whose payload is empty or begins with a code of no order (R147). -/
  | unknownOrder (w : Since) (p : Port) (h : OrderHead) (payload : List Byte)
  /-- STATUS: the frame end at `p` that delivers the order STATUS, with its parameter bytes (R164). -/
  | status (w : Since) (p : Port) (h : OrderHead) (args : List Byte)
  /-- CONFIG_READ: the frame end at `p` that delivers the order CONFIG_READ, with its parameter bytes (R166). -/
  | configRead (w : Since) (p : Port) (h : OrderHead) (args : List Byte)
  /-- CONFIG_WRITE: the frame end at `p` that delivers the order CONFIG_WRITE, with its parameter bytes (R167). -/
  | configWrite (w : Since) (p : Port) (h : OrderHead) (args : List Byte)
  /-- RULES_READ: the frame end at `p` that delivers the order RULES_READ, with its parameter bytes (R169). -/
  | rulesRead (w : Since) (p : Port) (h : OrderHead) (args : List Byte)
  /-- STAGE_WRITE: the frame end at `p` that delivers the order STAGE_WRITE, with its parameter bytes (R86). -/
  | stageWrite (w : Since) (p : Port) (h : OrderHead) (args : List Byte)
  /-- STAGE_CLEAR: the frame end at `p` that delivers the order STAGE_CLEAR, with its parameter bytes (R88). -/
  | stageClear (w : Since) (p : Port) (h : OrderHead) (args : List Byte)
  /-- STAGE_CLONE: the frame end at `p` that delivers the order STAGE_CLONE, with its parameter bytes (R89). -/
  | stageClone (w : Since) (p : Port) (h : OrderHead) (args : List Byte)
  /-- COMMIT: the frame end at `p` that delivers the order COMMIT, with its parameter bytes (R90). -/
  | commit (w : Since) (p : Port) (h : OrderHead) (args : List Byte)
  /-- ABANDON: the frame end at `p` that delivers the order ABANDON, with its parameter bytes (R102). -/
  | abandon (w : Since) (p : Port) (h : OrderHead) (args : List Byte)
  /-- HOLD: the frame end at `p` that delivers the order HOLD, with its parameter bytes (R108). -/
  | hold (w : Since) (p : Port) (h : OrderHead) (args : List Byte)
  /-- RELEASE: the frame end at `p` that delivers the order RELEASE, with its parameter bytes (R109). -/
  | release (w : Since) (p : Port) (h : OrderHead) (args : List Byte)
  /-- PROFILE_READ: the frame end at `p` that delivers the order PROFILE_READ, with its parameter bytes (R173). -/
  | profileRead (w : Since) (p : Port) (h : OrderHead) (args : List Byte)
  /-- PROFILE_WRITE: the frame end at `p` that delivers the order PROFILE_WRITE, with its parameter bytes (R80). -/
  | profileWrite (w : Since) (p : Port) (h : OrderHead) (args : List Byte)
  /-- EXCHANGE_LIST: the frame end at `p` that delivers the order EXCHANGE_LIST, with its parameter bytes (R175). -/
  | exchangeList (w : Since) (p : Port) (h : OrderHead) (args : List Byte)
  /-- EXCHANGE_FLUSH: the frame end at `p` that delivers the order EXCHANGE_FLUSH, with its parameter bytes (R176). -/
  | exchangeFlush (w : Since) (p : Port) (h : OrderHead) (args : List Byte)
  /-- SNAPSHOT: the frame end at `p` that delivers the order SNAPSHOT, with its parameter bytes (R120). -/
  | snapshot (w : Since) (p : Port) (h : OrderHead) (args : List Byte)
  /-- SNAPSHOT_READ: the frame end at `p` that delivers the order SNAPSHOT_READ, with its parameter bytes (R123). -/
  | snapshotRead (w : Since) (p : Port) (h : OrderHead) (args : List Byte)
  /-- TALLY_CLEAR: the frame end at `p` that delivers the order TALLY_CLEAR, with its parameter bytes (R128). -/
  | tallyClear (w : Since) (p : Port) (h : OrderHead) (args : List Byte)
  /-- PORT_COUNTERS: the frame end at `p` that delivers the order PORT_COUNTERS, with its parameter bytes (R178). -/
  | portCounters (w : Since) (p : Port) (h : OrderHead) (args : List Byte)
  /-- CAPTURE_READ: the frame end at `p` that delivers the order CAPTURE_READ, with its parameter bytes (R137). -/
  | captureRead (w : Since) (p : Port) (h : OrderHead) (args : List Byte)
  /-- CAPTURE_CLEAR: the frame end at `p` that delivers the order CAPTURE_CLEAR, with its parameter bytes (R139). -/
  | captureClear (w : Since) (p : Port) (h : OrderHead) (args : List Byte)
  /-- WORD_READ: the frame end at `p` that delivers the order WORD_READ, with its parameter bytes (R186). -/
  | wordRead (w : Since) (p : Port) (h : OrderHead) (args : List Byte)
  /-- WORD_WRITE: the frame end at `p` that delivers the order WORD_WRITE, with its parameter bytes (R187). -/
  | wordWrite (w : Since) (p : Port) (h : OrderHead) (args : List Byte)
  /-- RESTART: the frame end at `p` that delivers the order RESTART, with its parameter bytes (R200). -/
  | restart (w : Since) (p : Port) (h : OrderHead) (args : List Byte)
  /-- SIGNAL_CHANGE: the far end's signal at `p` appears or disappears (R11). -/
  | signalChange (w : Since) (p : Port) (present : Bool)
  /-- FRAME_BEGIN: the first byte after four idle byte times arrives at `p` (R2). -/
  | frameBegin (w : Since) (p : Port) (first : Byte)
deriving DecidableEq, Repr

end Sys2Proof
end

