-- ==== Sys2Proof/Config.lean ====
section
/-! DEFINITION. Config.lean: what the spec fixes for every HG-36 as a number: capacities, durations, the fallback station.
There is no free value here: the spec leaves no result of a command open (INVENTORY.md, "What the manual leaves open"). -/

namespace Sys2Proof.Config

/-- Quarter microseconds in a millisecond. -/
def unitsPerMs : Nat := 4000

/-- Absence that makes a line loss, 5 ms (R11). -/
def lossTime : Nat := 5 * unitsPerMs

/-- Presence that makes a line return, 2 ms (R11). -/
def returnTime : Nat := 2 * unitsPerMs

/-- The limit within which a RESTART is carried out, 20 ms (R201). -/
def restartTime : Nat := 20 * unitsPerMs

/-- A Forward Queue holds up to 12 items (R14). -/
def forwardCapacity : Nat := 12

/-- A Local Queue holds up to 4 items (R15). -/
def localCapacity : Nat := 4

/-- The receive assembly stores the first 247 bytes of a frame (R2). -/
def assemblyCapacity : Nat := 247

/-- The PET holds up to 64 entries (R43). -/
def petCapacity : Nat := 64

/-- The Lapsed Ring holds up to 16 keys (R49). -/
def ringCapacity : Nat := 16

/-- The Capture Queue holds up to 16 records (R131). -/
def captureCapacity : Nat := 16

/-- A capture record keeps at most 200 payload bytes (R133). -/
def keptPayload : Nat := 200

/-- A payload is at most 240 bytes (R3). -/
def maxPayload : Nat := 240

/-- EXCHANGE_LIST returns at most 12 records (R67). -/
def listPage : Nat := 12

/-- SNAPSHOT_READ returns at most 3 records (R123). -/
def readPage : Nat := 3

/-- Idle byte times after a telegram's bytes that belong to its transmission (R17). -/
def gapBytes : Nat := 4

/-- The station number used when the straps hold an unusable value (R194). -/
def fallbackStation : Byte := 239

/-- The limit at which a 32-bit counter stops (R20, R112). -/
def countLimit : Nat := 4294967295

end Sys2Proof.Config
end

