-- ==== Sys2Proof/Machine/State.lean ====
section
/-! DEFINITION. Machine/State.lean: everything the spec lets the gate hold, as plain data, and the gate right after reset. -/

namespace Sys2Proof.Machine

/-- There is no way for the gate to stop with a fault: a store found wrong halts the gate, and that is a next state (R198). -/
inductive Fault where
deriving DecidableEq, Repr

/-- Why a command gets no meaning. -/
inductive Refusal where
  /-- Raised by `exec` alone, for a row of the table that has no meaning yet; safe, since nothing is claimed of it. -/
  | notModelled (mnemonic : String)
deriving DecidableEq, Repr

/-! ## Rules (chapter 2) -/

/-- The action of a rule entry (R24). -/
inductive Action where
  | pass
  | block
  | track
deriving DecidableEq, Repr

/-- What happens to an over-rate telegram (R25, R37). -/
inductive OverRate where
  | drop
  | mark
deriving DecidableEq, Repr

/-- A rule entry, field by field as R21 lists them; "directions" is the two flags `downward` and `upward`. Bit 0 of `kinds` is
POLL, bit 5 ANSWER (R204). -/
structure RuleEntry where
  inUse : Bool
  downward : Bool
  upward : Bool
  sourceLow : Byte
  sourceHigh : Byte
  destLow : Byte
  destHigh : Byte
  kinds : BitVec 6
  action : Action
  group : Option Group
  profile : Option (Fin 16)
  overRate : OverRate
  capture : Bool
  timeoutClass : BitVec 2
  allowance : BitVec 2
  notice : Bool
deriving DecidableEq, Repr

/-- An entry after power-on and restart (R21, right-hand column). -/
def RuleEntry.reset : RuleEntry :=
  { inUse := false, downward := false, upward := false, sourceLow := 1, sourceHigh := 1, destLow := 1, destHigh := 1,
    kinds := 0, action := .pass, group := none, profile := none, overRate := .drop, capture := false, timeoutClass := 0,
    allowance := 0, notice := false }

/-- A stored item and whether its check code is right (R197; log entry 18). -/
structure Checked (α : Type) where
  item : α
  sound : Bool
deriving DecidableEq, Repr

/-- An item written with a fresh check code. -/
def Checked.fresh {α : Type} (x : α) : Checked α := { item := x, sound := true }

/-- A bank of 128 entries (R26). -/
abbrev RuleBank := Vector (Checked RuleEntry) 128

/-- Both banks after power-on and restart (R26). -/
def RuleBank.reset : RuleBank := Vector.replicate 128 (Checked.fresh RuleEntry.reset)

/-! ## Telegrams and line ports (chapter 1) -/

/-- A telegram, field by field as R3 lists them; the payload length is the payload's. -/
structure Telegram where
  dest : Byte
  source : Byte
  kind : Kind
  mark : Bool
  reach : BitVec 4
  tag : Tag
  payload : List Byte
deriving DecidableEq, Repr

/-- The receive assembly of one frame (R2): its first 247 bytes, its length, the check word over all its bytes but the last two
(R4), and its last two bytes. -/
structure Assembly where
  stored : List Byte
  length : Nat
  crc : BitVec 16
  tail : List Byte
deriving DecidableEq, Repr

/-- The frame that a line loss found in the receive assembly, and the moment of that loss. A frame end of the same moment taken
after the loss may still bring a REPLY to be decided (R65; log entry 24). -/
structure LostFrame where
  frame : Assembly
  moment : Moment
deriving DecidableEq, Repr

/-- An item of a Forward Queue (R14). -/
structure Forwarded where
  telegram : Telegram
  group : Option Group
deriving DecidableEq, Repr

/-- An item of a Local Queue (R15). `restartAnswer` marks the answer that R200 placed at the head, whose completion carries out
the restart; a copy placed by a repeat does not bear it (R201). -/
structure Own where
  telegram : Telegram
  restartAnswer : Bool
deriving DecidableEq, Repr

/-- A telegram held by a transmitter. -/
inductive TxItem where
  | forwarded (x : Forwarded)
  | own (x : Own)
deriving DecidableEq, Repr

/-- A telegram in transmission: what it is, its bytes on the line with the check word computed afresh (R4), and the moment at
which its idle gap ends (R17). -/
structure Transmission where
  item : TxItem
  frame : List Byte
  ends : Moment
deriving DecidableEq, Repr

/-- A line state (R11). -/
inductive LineState where
  | down
  | up
deriving DecidableEq, Repr

/-- The thirteen port counters, in the order of the table of R20. -/
inductive PortCounter where
  | goodReceived
  | checkErrors
  | illFormed
  | illAddressed
  | reachExhausted
  | ordersTaken
  | ordersRefused
  | repeatsAnswered
  | answersDropped
  | noticesDropped
  | localItemsLost
  | lineLossEvents
  | discardedWhileHalted
deriving DecidableEq, Repr

/-- The statuses an answer may carry (R152). -/
inductive Status where
  | done
  | accepted
  | completed
  | refused
  | abandoned
  | busy
  | denied
  | unknownOrder
  | badParam
  | inUse
  | notBusy
  | halted
deriving DecidableEq, Repr

/-- The gate state (R193). -/
inductive GateState where
  | starting
  | serving
  | halted
deriving DecidableEq, Repr

/-- The three states of the Command Slot as reported (R154). -/
inductive SlotState where
  | idle
  | validating
  | restarting
deriving DecidableEq, Repr

/-- An answer: its header's fields and its data (R151). -/
structure Answer where
  code : Byte
  status : Status
  gate : GateState
  slot : SlotState
  generation : Half
  detail : Half
  data : List Byte
deriving DecidableEq, Repr

/-- A valid Last Answer Record (R157). -/
structure LastAnswer where
  requester : Byte
  tag : Tag
  answer : Answer
deriving DecidableEq, Repr

/-- What belongs to one port: its line monitor, receiver, transmit side and counters (chapter 1), its Last Answer Record (R157)
and the notice-pending flag toward its side (R190). -/
structure PortState where
  /-- The far end drives the receive pair. -/
  signal : Bool
  line : LineState
  /-- When the absence (line UP) or presence (line DOWN) being timed began. -/
  timing : Option Moment
  assembly : Option Assembly
  /-- What the last line loss took from the assembly: the model's own field (log entry 24). -/
  lostFrame : Option LostFrame
  forwardQ : List Forwarded
  localQ : List Own
  sending : Option Transmission
  counters : Vector Count 13
  lastAnswer : Option LastAnswer
  noticePending : Bool
deriving DecidableEq, Repr

/-- A port after power-on or restart, with its line monitor as given (R19, R20, R157, R185). -/
def PortState.fresh (signal : Bool) (line : LineState) (timing : Option Moment) : PortState :=
  { signal := signal, line := line, timing := timing, assembly := none, lostFrame := none, forwardQ := [],
    localQ := [], sending := none, counters := Vector.replicate 13 0, lastAnswer := none,
    noticePending := false }

/-! ## Exchanges, profiles, tallies, captures (chapters 3, 4, 6, 7) -/

/-- An open exchange (R43). -/
structure PetEntry where
  key : Key
  port : Port
  rule : RuleIndex
  group : Option Group
  timeoutClass : BitVec 2
  deadline : Moment
  used : BitVec 2
  allowance : BitVec 2
  notice : Bool
  number : Half
  slot : Fin 64
deriving DecidableEq, Repr

/-- How a profile counts a telegram's cost (R72). -/
inductive CostMode where
  | perTelegram
  | perSize
deriving DecidableEq, Repr

/-- A rate profile (R71) and the moment of its next period expiry (R73). -/
structure Profile where
  capacity : Byte
  amount : Byte
  period : Half
  mode : CostMode
  credits : Byte
  nextExpiry : Option Moment
deriving DecidableEq, Repr

/-- A profile after power-on and restart (R71). -/
def Profile.reset : Profile :=
  { capacity := 0, amount := 1, period := 1000, mode := .perTelegram, credits := 0, nextExpiry := none }

/-- The eighteen counters of a tally group, in counter order (R111). -/
inductive Counter where
  | passed
  | passedOctets
  | blocked
  | held
  | lineLost
  | queueFull
  | overRateDropped
  | overRateMarked
  | opened
  | answered
  | retried
  | retryRefused
  | lapsed
  | late
  | unsolicited
  | tableFull
  | requesterLimit
  | flushed
deriving DecidableEq, Repr

/-- A tally group's live counters (R111). -/
abbrev Counters := Vector Count 18

/-- All eighteen at 0. -/
def Counters.zero : Counters := Vector.replicate 18 0

/-- A HELD snapshot slot (R118) with its check code (R117). -/
structure Snapshot where
  counters : Counters
  saturated : Bool
  generation : BitVec 10
  sequence : Half
  sound : Bool
deriving DecidableEq, Repr

/-- How a forward decision ended (R134). -/
inductive CaptureOutcome where
  | blocked
  | held
  | lineLost
  | queueFull
  | overRateDropped
  | retryRefused
  | tableFull
  | requesterLimit
  | late
  | unsolicited
  | enqueued
  | enqueuedMarked
deriving DecidableEq, Repr

/-- A capture record (R133). -/
structure CaptureRecord where
  port : Port
  rule : RuleIndex
  generation : Half
  outcome : CaptureOutcome
  dest : Byte
  source : Byte
  kind : Kind
  mark : Bool
  reach : BitVec 4
  tag : Tag
  payloadLength : Byte
  kept : List Byte
  truncated : Bool
deriving DecidableEq, Repr

/-! ## Management (chapter 8) and start-up (chapter 11) -/

/-- A direction default's action (R30). -/
inductive DefaultAction where
  | pass
  | block
deriving DecidableEq, Repr

/-- Which orders Port F may use (R148). -/
inductive FieldAccess where
  | closed
  | inquire
  | full
deriving DecidableEq, Repr

/-- The gate settings record (R161); field access NONE is `closed`. -/
structure Settings where
  actionDown : DefaultAction
  actionUp : DefaultAction
  groupDown : Option Group
  groupUp : Option Group
  requesterLimit : Byte
  classMs : Vector Half 4
  access : FieldAccess
  noticeC : Option Byte
  noticeF : Option Byte
  answerReach : BitVec 4
deriving DecidableEq, Repr

/-- The settings after power-on and restart (R161). -/
def Settings.reset : Settings :=
  { actionDown := .block, actionUp := .block, groupDown := none, groupUp := none, requesterLimit := 4,
    classMs := #v[50, 200, 1000, 5000], access := .inquire, noticeC := none, noticeF := none, answerReach := 15 }

/-- The reasons for which validation refuses an entry (R91). -/
inductive Reason where
  | sourceRange
  | destRange
  | noKind
  | noDirection
  | profileOnBlock
  | undefinedProfile
  | trackFields
deriving DecidableEq, Repr

/-- The context of the commit in flight (R155), with what validation's reading at the taking found: the in-use entries and the
first failure (R93). -/
structure CommitContext where
  requester : Byte
  port : Port
  tag : Tag
  hold : Bool
  keep : Bool
  inUse : Nat
  failure : Option (Reason × RuleIndex)
deriving DecidableEq, Repr

/-- The pending restart: the RESTART's arrival port and the moment its 20 ms limit is reached (R201). -/
structure PendingRestart where
  port : Port
  limit : Moment
deriving DecidableEq, Repr

/-- The Command Slot (R154). -/
inductive Slot where
  | idle
  | validating (c : CommitContext)
  | restarting (r : PendingRestart)
deriving DecidableEq, Repr

/-- The results of a commit (R99). -/
inductive CommitResult where
  | completed
  | refused
  | abandoned
  | faulted
deriving DecidableEq, Repr

/-- The Outcome Record (R160); its order is always COMMIT. -/
structure OutcomeRecord where
  requester : Byte
  port : Port
  tag : Tag
  result : CommitResult
  detail : Half
deriving DecidableEq, Repr

/-- The fault record's contents (R197). -/
inductive GateFault where
  | strap (value : Byte)
  | ruleStore (bank : Bank) (i : RuleIndex)
  | exchangeStore (slot : Fin 64)
  | tallyStore (g : Group)
deriving DecidableEq, Repr

/-- The gate. Every field but `now` and `pending`, and every field of a port but `lostFrame`, is a piece of state that
the spec names (INVENTORY.md, State). -/
structure State where
  /-- The clock, in quarter microseconds (log entry 6). -/
  now : Moment
  /-- RESET_N is held low (R202). -/
  inReset : Bool
  /-- The levels of the strap pins (R194). -/
  strapPins : Straps
  /-- The strap values sampled at the start of STARTING (R194). -/
  sampled : Straps
  gate : GateState
  fault : Option GateFault
  portC : PortState
  portF : PortState
  bankA : RuleBank
  bankB : RuleBank
  activeBank : Bank
  generation : Half
  /-- Whether the check code of each PET storage slot is right (R68). -/
  petSound : Vector Bool 64
  /-- The open exchanges, in listing order (R44). -/
  pet : List PetEntry
  /-- The Lapsed Ring, oldest first (R49). -/
  ring : List Key
  openCounter : Half
  profiles : Vector Profile 16
  holdDown : Bool
  holdUp : Bool
  tallies : Vector (Checked Counters) 32
  /-- The snapshot slots; none is EMPTY (R118). -/
  snapshots : Vector (Option Snapshot) 32
  captureSeq : Half
  /-- The Capture Queue, oldest first (R131). -/
  captures : List CaptureRecord
  overflow : Half
  settings : Settings
  slot : Slot
  outcome : Option OutcomeRecord
  words : Vector Half 16
  /-- The commands that wait, first in, first out: the model's own field. -/
  pending : List Instr
deriving DecidableEq, Repr

/-- The gate right after power-on (R202): STARTING, every block at its reset value (R195), the lines and the straps sampled.
DESIGN CHOICE: the clock at 0 (log entry 6), the strap pins at station 200 and 1 Mbit/s (log entry 4), both signals present
(log entry 5). -/
def State.reset : State :=
  { now := 0, inReset := false, strapPins := { stn := 200, rts := 1 }, sampled := { stn := 200, rts := 1 },
    gate := .starting, fault := none,
    portC := PortState.fresh true .up none, portF := PortState.fresh true .up none,
    bankA := RuleBank.reset, bankB := RuleBank.reset, activeBank := .a, generation := 0,
    petSound := Vector.replicate 64 true, pet := [], ring := [], openCounter := 0,
    profiles := Vector.replicate 16 Profile.reset, holdDown := true, holdUp := true,
    tallies := Vector.replicate 32 (Checked.fresh Counters.zero), snapshots := Vector.replicate 32 none,
    captureSeq := 0, captures := [], overflow := 0, settings := Settings.reset, slot := .idle, outcome := none,
    words := Vector.replicate 16 0, pending := [] }

end Sys2Proof.Machine
end

