-- ==== Sys2Proof/Machine/Formats.lean ====
section
/-! DEFINITION. Machine/Formats.lean: every layout seen on a line (chapter 12): the check word, telegrams, rule entries, answers
and the records answers return. -/

namespace Sys2Proof.Machine

/-! ## Quantities: most significant byte first -/

/-- A two-byte quantity's bytes (R163). -/
def halfBytes (x : Half) : List Byte := [x.extractLsb' 8 8, x.extractLsb' 0 8]

/-- A four-byte quantity's bytes (R205). -/
def countBytes (x : Count) : List Byte :=
  [x.extractLsb' 24 8, x.extractLsb' 16 8, x.extractLsb' 8 8, x.extractLsb' 0 8]

/-- The two-byte quantity of two bytes. -/
def halfOf (hi lo : Byte) : Half := hi ++ lo

/-- The four-byte quantity of four bytes. -/
def countOf (x3 x2 x1 x0 : Byte) : Count := x3 ++ x2 ++ x1 ++ x0

/-- A number as one byte. -/
def byteOf (n : Nat) : Byte := BitVec.ofNat 8 n

/-- A number as two bytes. -/
def halfOfNat (n : Nat) : Half := BitVec.ofNat 16 n

/-! ## Codes -/

/-- Ports are 00h and 01h (R205). -/
def portCode : Port → Byte
  | .c => 0
  | .f => 1

/-- Bank identities are 00h and 01h (R205). -/
def bankCode : Bank → Byte
  | .a => 0
  | .b => 1

/-- The kind codes (R203). -/
def kindCode : Kind → BitVec 3
  | .poll => 1
  | .reply => 2
  | .note => 3
  | .sync => 4
  | .order => 5
  | .answer => 6

/-- The kind of a code; 0 and 7 are undefined (R203). -/
def kindOf (x : BitVec 3) : Option Kind :=
  if x = 1 then some .poll
  else if x = 2 then some .reply
  else if x = 3 then some .note
  else if x = 4 then some .sync
  else if x = 5 then some .order
  else if x = 6 then some .answer
  else none

/-- A kind's bit in a kind set (R204). -/
def kindBit : Kind → Nat
  | .poll => 0
  | .reply => 1
  | .note => 2
  | .sync => 3
  | .order => 4
  | .answer => 5

/-- The status codes of the answer header (R205). -/
def statusCode : Status → Byte
  | .done => 0x00
  | .accepted => 0x01
  | .completed => 0x02
  | .refused => 0x03
  | .abandoned => 0x04
  | .busy => 0x05
  | .denied => 0x06
  | .unknownOrder => 0x07
  | .badParam => 0x08
  | .inUse => 0x09
  | .notBusy => 0x0A
  | .halted => 0x0B

/-- The gate state codes (R205). STARTING has none, since no answer is built then (R151); 00h stands for it (log entry 15). -/
def gateCode : GateState → Byte
  | .starting => 0
  | .serving => 1
  | .halted => 2

/-- The slot state codes (R205). -/
def slotCode : SlotState → BitVec 2
  | .idle => 0
  | .validating => 1
  | .restarting => 2

/-- The capture outcome codes (R207). -/
def outcomeCode : CaptureOutcome → BitVec 4
  | .blocked => 0x1
  | .held => 0x2
  | .lineLost => 0x3
  | .queueFull => 0x4
  | .overRateDropped => 0x5
  | .retryRefused => 0x6
  | .tableFull => 0x7
  | .requesterLimit => 0x8
  | .late => 0x9
  | .unsolicited => 0xA
  | .enqueued => 0xB
  | .enqueuedMarked => 0xC

/-- The reason numbers of validation (R91). -/
def reasonNumber : Reason → Byte
  | .sourceRange => 1
  | .destRange => 2
  | .noKind => 3
  | .noDirection => 4
  | .profileOnBlock => 5
  | .undefinedProfile => 6
  | .trackFields => 7

/-- The result codes of the Outcome Record (R206). -/
def resultCode : CommitResult → Byte
  | .completed => 1
  | .refused => 2
  | .abandoned => 3
  | .faulted => 4

/-- The cost mode codes (R205). -/
def costModeCode : CostMode → Byte
  | .perTelegram => 0
  | .perSize => 1

/-- A tally group or FFh for absent (R204, R206, R207). -/
def groupCode : Option Group → Byte
  | none => 0xFF
  | some g => byteOf g.val

/-- A station or FFh for absent (R206). -/
def stationCode : Option Byte → Byte
  | none => 0xFF
  | some x => x

/-! ## The check word (R4) -/

/-- One bit of the computation: generator 1021h. -/
def crcBit (crc : BitVec 16) : BitVec 16 := if crc.msb then (crc <<< 1) ^^^ 0x1021#16 else crc <<< 1

/-- One byte, most significant bit first. -/
def crcByte (crc : BitVec 16) (x : Byte) : BitVec 16 := Nat.repeat crcBit 8 (crc ^^^ (x ++ 0#8))

/-- The initial value FFFFh. -/
def crcInit : BitVec 16 := 0xFFFF

/-- The check word of a list of bytes. -/
def crcOf (bytes : List Byte) : BitVec 16 := bytes.foldl crcByte crcInit

/-! ## Telegrams (R203) -/

/-- The five header bytes, with `length` as the payload length. -/
def headerBytes (dest source : Byte) (kind : Kind) (mark : Bool) (reach : BitVec 4) (tag : Tag) (length : Byte) : List Byte :=
  [dest, source, kindCode kind ++ BitVec.ofBool mark ++ reach, 0#2 ++ tag, length]

/-- The header of a telegram. -/
def Telegram.header (t : Telegram) : List Byte :=
  headerBytes t.dest t.source t.kind t.mark t.reach t.tag (byteOf t.payload.length)

/-- The whole telegram on the line, its check word computed afresh (R4). -/
def Telegram.frame (t : Telegram) : List Byte :=
  let body := t.header ++ t.payload
  body ++ halfBytes (crcOf body)

/-- The octets of a telegram for tally purposes (R112). -/
def Telegram.octets (t : Telegram) : Nat := 5 + t.payload.length

/-- What a forwarding makes of a telegram: reach one lower, the mark set if it arrived set or if step 5 marked it (R42). -/
def Telegram.forwarded (t : Telegram) (marked : Bool) : Telegram :=
  { t with reach := t.reach - 1, mark := t.mark || marked }

/-! ## The receive assembly (R2, R4) -/

/-- The assembly before any byte. -/
def Assembly.empty : Assembly := { stored := [], length := 0, crc := crcInit, tail := [] }

/-- One byte more: stored while fewer than 247 are, counted, and passed through the check word computation once two later bytes
show that it is not one of the last two. -/
def Assembly.push (a : Assembly) (x : Byte) : Assembly :=
  let stored := if a.length < Config.assemblyCapacity then a.stored ++ [x] else a.stored
  match a.tail with
  | [hi, lo] => { stored := stored, length := a.length + 1, crc := crcByte a.crc hi, tail := [lo, x] }
  | short => { stored := stored, length := a.length + 1, crc := a.crc, tail := short ++ [x] }

/-- Several bytes more. -/
def Assembly.pushAll (a : Assembly) (bytes : List Byte) : Assembly := bytes.foldl Assembly.push a

/-- The first intake check: 7 bytes or more and the check word right (R5). -/
def Assembly.checkWordRight (a : Assembly) : Bool :=
  decide (7 ≤ a.length) && decide (a.tail = halfBytes a.crc)

/-- The second intake check: the telegram of a well-formed frame, none for an ill-formed one (R6). -/
def Assembly.telegram (a : Assembly) : Option Telegram :=
  match a.stored with
  | dest :: source :: b2 :: b3 :: b4 :: rest =>
    if Config.maxPayload < b4.toNat then none
    else if a.length ≠ 7 + b4.toNat then none
    else if b3.extractLsb' 6 2 ≠ 0 then none
    else match kindOf (b2.extractLsb' 5 3) with
      | none => none
      | some kind =>
        some { dest := dest, source := source, kind := kind, mark := b2.getLsbD 4, reach := b2.extractLsb' 0 4,
               tag := b3.extractLsb' 0 6, payload := rest.take b4.toNat }
  | _ => none

/-! ## Rule entries (R204) -/

/-- The two action bits. -/
def actionCode : Action → BitVec 2
  | .pass => 0
  | .block => 1
  | .track => 2

/-- The action of two bits; 11 is not allowed. -/
def actionOf (x : BitVec 2) : Option Action :=
  if x = 0 then some .pass else if x = 1 then some .block else if x = 2 then some .track else none

/-- The nine bytes of an entry. -/
def RuleEntry.encode (e : RuleEntry) : List Byte :=
  [BitVec.ofBool e.inUse ++ BitVec.ofBool e.upward ++ BitVec.ofBool e.downward ++ actionCode e.action ++
     BitVec.ofBool e.capture ++ BitVec.ofBool e.notice ++ BitVec.ofBool (decide (e.overRate = .mark)),
   e.sourceLow, e.sourceHigh, e.destLow, e.destHigh, 0#2 ++ e.kinds, groupCode e.group,
   (match e.profile with | none => 0xFF | some n => byteOf n.val),
   0#4 ++ e.allowance ++ e.timeoutClass]

/-- A source byte in range, 1..239 (R86). -/
def sourceByteOk (x : Byte) : Bool := decide (1 ≤ x.toNat) && decide (x.toNat ≤ 239)

/-- A destination byte in range, 1..239 or 255 (R86). -/
def destByteOk (x : Byte) : Bool := sourceByteOk x || decide (x.toNat = 255)

/-- The tally group of a byte: 0..31, or absent for FFh; `none` when out of range (R86, R206). -/
def groupOf (x : Byte) : Option (Option Group) :=
  if h : x.toNat < 32 then some (some ⟨x.toNat, h⟩) else if x = 0xFF then some none else none

/-- The profile of a byte: 0..15, or absent for FFh; `none` when out of range (R86). -/
def profileOf (x : Byte) : Option (Option (Fin 16)) :=
  if h : x.toNat < 16 then some (some ⟨x.toNat, h⟩) else if x = 0xFF then some none else none

/-- The entry of nine bytes, read from the first; an error is the offset of the first faulty byte (R86, R204). -/
def RuleEntry.decode (b0 b1 b2 b3 b4 b5 b6 b7 b8 : Byte) : Except Nat RuleEntry :=
  match actionOf (b0.extractLsb' 3 2) with
  | none => .error 0
  | some action =>
    if !sourceByteOk b1 then .error 1
    else if !sourceByteOk b2 then .error 2
    else if !destByteOk b3 then .error 3
    else if !destByteOk b4 then .error 4
    else match groupOf b6 with
      | none => .error 6
      | some group =>
        match profileOf b7 with
        | none => .error 7
        | some profile =>
          if b8.extractLsb' 4 4 ≠ 0 then .error 8
          else .ok { inUse := b0.getLsbD 7, downward := b0.getLsbD 5, upward := b0.getLsbD 6, sourceLow := b1,
                     sourceHigh := b2, destLow := b3, destHigh := b4, kinds := b5.extractLsb' 0 6, action := action,
                     group := group, profile := profile, overRate := if b0.getLsbD 0 then .mark else .drop,
                     capture := b0.getLsbD 2, timeoutClass := b8.extractLsb' 0 2, allowance := b8.extractLsb' 2 2,
                     notice := b0.getLsbD 1 }

/-! ## Answers and the records they return (R205, R206, R207) -/

/-- The payload of an answer: the eight-byte header and the data. -/
def Answer.payload (a : Answer) : List Byte :=
  [a.code, statusCode a.status, gateCode a.gate, 0#6 ++ slotCode a.slot] ++ halfBytes a.generation ++ halfBytes a.detail ++
    a.data

/-- The detail of a REFUSED answer: reason number and entry index (R91, R205). -/
def refusedDetail (r : Reason) (i : RuleIndex) : Half := halfOf (reasonNumber r) (byteOf i.val)

/-- A PROFILE_READ record (R173, R206). -/
def Profile.record (x : Profile) : List Byte :=
  [x.capacity, x.amount] ++ halfBytes x.period ++ [costModeCode x.mode, x.credits]

/-- The milliseconds to a deadline, rounded up, at least 1, saturating at 65535 (R48, R67). -/
def msRemaining (now deadline : Moment) : Nat :=
  min 65535 (max 1 ((deadline - now + (Config.unitsPerMs - 1)) / Config.unitsPerMs))

/-- An exchange record (R175, R207). -/
def PetEntry.record (now : Moment) (e : PetEntry) : List Byte :=
  [e.key.requester, e.key.responder, 0#2 ++ e.key.tag, portCode e.port, byteOf e.rule.val, groupCode e.group,
   0#6 ++ e.timeoutClass, 0#6 ++ e.used] ++ halfBytes e.number ++ halfBytes (halfOfNat (msRemaining now e.deadline))

/-- The counter values of a group, four bytes each, in counter order. -/
def countersBytes {n : Nat} (v : Vector Count n) : List Byte := v.toList.flatMap countBytes

/-- A snapshot record of a group's slot (R207). -/
def Snapshot.record (g : Group) (x : Snapshot) : List Byte :=
  halfBytes (BitVec.ofBool x.saturated ++ BitVec.ofNat 5 g.val ++ x.generation) ++ halfBytes x.sequence ++
    countersBytes x.counters

/-- A capture record (R207). -/
def CaptureRecord.record (x : CaptureRecord) : List Byte :=
  [BitVec.ofBool (decide (x.port = .f)) ++ BitVec.ofBool x.truncated ++ 0#2 ++ outcomeCode x.outcome, byteOf x.rule.val] ++
    halfBytes x.generation ++ headerBytes x.dest x.source x.kind x.mark x.reach x.tag x.payloadLength ++ x.kept

/-- The default action codes (R206). -/
def defaultActionCode : DefaultAction → Byte
  | .pass => 0
  | .block => 1

/-- The field access codes (R206). -/
def accessCode : FieldAccess → Byte
  | .closed => 0
  | .inquire => 1
  | .full => 2

/-- The seventeen bytes of the gate settings record (R206). -/
def Settings.bytes (x : Settings) : List Byte :=
  [defaultActionCode x.actionDown, defaultActionCode x.actionUp, groupCode x.groupDown, groupCode x.groupUp,
   x.requesterLimit] ++ x.classMs.toList.flatMap halfBytes ++
    [accessCode x.access, stationCode x.noticeC, stationCode x.noticeF, 0#4 ++ x.answerReach]

/-- The fault kind and the two fault details of the STATUS data (R206). -/
def faultBytes : Option GateFault → List Byte
  | none => [0, 0, 0]
  | some (.strap v) => [1, v, 0]
  | some (.ruleStore bank i) => [2, bankCode bank, byteOf i.val]
  | some (.exchangeStore slot) => [3, byteOf slot.val, 0]
  | some (.tallyStore g) => [4, byteOf g.val, 0]

/-- The seven bytes of the Outcome Record in the STATUS data (R206). -/
def outcomeBytes : Option OutcomeRecord → List Byte
  | none => [0, 0, 0, 0, 0, 0, 0]
  | some x => [0x08, x.requester, portCode x.port, 0#2 ++ x.tag, resultCode x.result] ++ halfBytes x.detail

/-! ## Notices (R208) -/

/-- The payload of a lapse notice (R59, R208). -/
def lapsePayload (e : PetEntry) : List Byte :=
  [0x02, e.key.responder, 0#2 ++ e.key.tag, 0#6 ++ e.used, 0#6 ++ e.timeoutClass]

/-- The payload of a word notice (R189, R208). -/
def wordPayload (index : Fin 16) (value : Half) : List Byte := [0x01, byteOf index.val] ++ halfBytes value

end Sys2Proof.Machine
end

