-- ==== Sys2Proof/Machine/Operands.lean ====
section
/-! DEFINITION. Machine/Operands.lean: the parameters of the orders and their checks (R150, R163). A check answers the parameters,
or the position of the first faulty byte; position 0 is the order code, so parameter byte k of the list stands at position k+1. -/

namespace Sys2Proof.Machine

/-- The byte at a position from 1; its absence faults there (R163). -/
def byteAt (args : List Byte) (pos : Nat) : Except Nat Byte :=
  match args[pos - 1]? with
  | some x => .ok x
  | none => .error pos

/-- The two-byte quantity at a position; the fault is the first missing byte (R163). -/
def halfAt (args : List Byte) (pos : Nat) : Except Nat Half := do
  let hi ← byteAt args pos
  let lo ← byteAt args (pos + 1)
  return halfOf hi lo

/-- A value's range check, at the first byte of its parameter (R163). -/
def demand (ok : Bool) (pos : Nat) : Except Nat Unit := if ok then .ok () else .error pos

/-- No byte may follow the `n` parameter bytes (R163). -/
def noMore (args : List Byte) (n : Nat) : Except Nat Unit := demand (decide (args.length ≤ n)) (n + 1)

/-- A group set in four bytes (R163, R205). -/
def groupSetAt (args : List Byte) (pos : Nat) : Except Nat GroupSet := do
  let x3 ← byteAt args pos
  let x2 ← byteAt args (pos + 1)
  let x1 ← byteAt args (pos + 2)
  let x0 ← byteAt args (pos + 3)
  return countOf x3 x2 x1 x0

/-- No parameters (STATUS, CONFIG_READ, STAGE_CLEAR, STAGE_CLONE, ABANDON, EXCHANGE_FLUSH, CAPTURE_READ, CAPTURE_CLEAR, RESTART). -/
def noArgs (args : List Byte) : Except Nat Unit := noMore args 0

/-- A direction selection: 01h downward, 02h upward, 03h both (R163, R205, R172). -/
def directionArgs (args : List Byte) : Except Nat (Bool × Bool) := do
  let x ← byteAt args 1
  demand (decide (x = 1) || decide (x = 2) || decide (x = 3)) 1
  noMore args 1
  return (x.getLsbD 0, x.getLsbD 1)

/-- The option byte of COMMIT: HOLD and KEEP (R171, R205). -/
def commitArgs (args : List Byte) : Except Nat (Bool × Bool) := do
  let x ← byteAt args 1
  demand (decide (x.toNat ≤ 3)) 1
  noMore args 1
  return (x.getLsbD 0, x.getLsbD 1)

/-- A first index and a count at two positions: the index below `n`, the count 1..16 and the two together at most `n`
(R169, R173, R181). -/
def spanAt (args : List Byte) (pos n : Nat) : Except Nat (Nat × Nat) := do
  let first ← byteAt args pos
  demand (decide (first.toNat < n)) pos
  let count ← byteAt args (pos + 1)
  demand (decide (1 ≤ count.toNat) && decide (count.toNat ≤ 16) && decide (first.toNat + count.toNat ≤ n)) (pos + 1)
  return (first.toNat, count.toNat)

/-- RULES_READ: role (true for STAGING), start index, count (R169). -/
def rulesReadArgs (args : List Byte) : Except Nat (Bool × Nat × Nat) := do
  let role ← byteAt args 1
  demand (decide (role = 0) || decide (role = 1)) 1
  let span ← spanAt args 2 128
  noMore args 3
  return (decide (role = 1), span)

/-- PROFILE_READ: first profile, count (R173). -/
def profileReadArgs (args : List Byte) : Except Nat (Nat × Nat) := do
  let span ← spanAt args 1 16
  noMore args 2
  return span

/-- WORD_READ: start index, count (R181). -/
def wordReadArgs (args : List Byte) : Except Nat (Nat × Nat) := do
  let span ← spanAt args 1 16
  noMore args 2
  return span

/-- The entries of a STAGE_WRITE from the `k`-th on, each checked in turn (R86, R170): one of the first sixteen, at an index no
greater than 127, whole, and of an encoding in range. -/
def entriesFrom (start k : Nat) : List Byte → Except Nat (List RuleEntry)
  | [] => .ok []
  | b0 :: b1 :: b2 :: b3 :: b4 :: b5 :: b6 :: b7 :: b8 :: rest =>
    if 16 < k then .error 146
    else if 128 < start + k then .error (9 * k - 7)
    else match RuleEntry.decode b0 b1 b2 b3 b4 b5 b6 b7 b8 with
      | .error off => .error (9 * k - 7 + off)
      | .ok e =>
        match entriesFrom start (k + 1) rest with
        | .error pos => .error pos
        | .ok es => .ok (e :: es)
  | _ :: _ => if 16 < k then .error 146 else .error (9 * k - 7)

/-- STAGE_WRITE: start index, then 1 to 16 entries (R86, R170). -/
def stageWriteArgs (args : List Byte) : Except Nat (Nat × List RuleEntry) := do
  let start ← byteAt args 1
  demand (decide (start.toNat < 128)) 1
  demand (decide (2 ≤ args.length)) 2
  let es ← entriesFrom start.toNat 1 (args.drop 1)
  return (start.toNat, es)

/-- What a PROFILE_WRITE sets (R174). -/
structure ProfileArgs where
  number : Fin 16
  capacity : Byte
  amount : Byte
  period : Half
  mode : CostMode
deriving DecidableEq, Repr

/-- PROFILE_WRITE: profile, capacity, refill amount, refill period, cost mode (R79, R174). -/
def profileWriteArgs (args : List Byte) : Except Nat ProfileArgs := do
  let number ← byteAt args 1
  demand (decide (number.toNat < 16)) 1
  let capacity ← byteAt args 2
  let amount ← byteAt args 3
  demand (decide (1 ≤ amount.toNat)) 3
  let period ← halfAt args 4
  demand (decide (1 ≤ period.toNat) && decide (period.toNat ≤ 1000)) 4
  let mode ← byteAt args 6
  demand (decide (mode = 0) || decide (mode = 1)) 6
  noMore args 6
  return { number := Fin.ofNat 16 number.toNat, capacity := capacity, amount := amount, period := period,
           mode := if mode = 0 then .perTelegram else .perSize }

/-- EXCHANGE_LIST: a skip count (R175). -/
def exchangeListArgs (args : List Byte) : Except Nat Nat := do
  let skip ← byteAt args 1
  noMore args 1
  return skip.toNat

/-- A clear option: 00h no clear, 01h clear (R163, R205). -/
def clearAt (args : List Byte) (pos : Nat) : Except Nat Bool := do
  let x ← byteAt args pos
  demand (decide (x = 0) || decide (x = 1)) pos
  return decide (x = 1)

/-- SNAPSHOT: a group set and a clear option (R177). -/
def snapshotArgs (args : List Byte) : Except Nat (GroupSet × Bool) := do
  let set ← groupSetAt args 1
  let clear ← clearAt args 5
  noMore args 5
  return (set, clear)

/-- SNAPSHOT_READ and TALLY_CLEAR: a group set (R177). -/
def groupSetArgs (args : List Byte) : Except Nat GroupSet := do
  let set ← groupSetAt args 1
  noMore args 4
  return set

/-- PORT_COUNTERS: a port selection (Port C, Port F) and a clear option (R178, R205). -/
def portCountersArgs (args : List Byte) : Except Nat (Bool × Bool × Bool) := do
  let x ← byteAt args 1
  demand (decide (x = 1) || decide (x = 2) || decide (x = 3)) 1
  let clear ← clearAt args 2
  noMore args 2
  return (x.getLsbD 0, x.getLsbD 1, clear)

/-- The whole words of a list of bytes. -/
def wordsOf : List Byte → List Half
  | hi :: lo :: rest => halfOf hi lo :: wordsOf rest
  | _ => []

/-- WORD_WRITE: start index, then 1 to 16 words, the last at index 15 at most, in the sequence of R182 (log entry 13). -/
def wordWriteArgs (args : List Byte) : Except Nat (Nat × List Half) := do
  let start ← byteAt args 1
  demand (decide (start.toNat < 16)) 1
  let rest := args.drop 1
  demand (decide (1 ≤ rest.length)) 2
  demand (decide (rest.length % 2 = 0)) (rest.length + 2)
  demand (decide (rest.length / 2 ≤ 16 - start.toNat)) (2 * (17 - start.toNat))
  return (start.toNat, wordsOf rest)

/-! ## The settings of a CONFIG_WRITE (R167, R206) -/

/-- The thirteen fields, numbered from 0 in the order of R166. Fields 5 to 8 are the timeout-class values, in two bytes. -/
def fieldSize (k : Fin 13) : Nat := if 5 ≤ k.val ∧ k.val ≤ 8 then 2 else 1

/-- A default action's value (R206). -/
def defaultActionOf (x : Byte) : Option DefaultAction := if x = 0 then some .pass else if x = 1 then some .block else none

/-- A field access value (R206). -/
def accessOf (x : Byte) : Option FieldAccess :=
  if x = 0 then some .closed else if x = 1 then some .inquire else if x = 2 then some .full else none

/-- A notice station: 1..239, or absent for FFh (R206). -/
def noticeOf (x : Byte) : Option (Option Byte) :=
  if sourceByteOk x then some (some x) else if x = 0xFF then some none else none

/-- A one-byte field written into the settings; none when the value is out of range (R161, R167). -/
def writeByteField (k : Fin 13) (x : Byte) (st : Settings) : Option Settings :=
  match k with
  | 0 => (defaultActionOf x).map fun v => { st with actionDown := v }
  | 1 => (defaultActionOf x).map fun v => { st with actionUp := v }
  | 2 => (groupOf x).map fun v => { st with groupDown := v }
  | 3 => (groupOf x).map fun v => { st with groupUp := v }
  | 4 => if 1 ≤ x.toNat ∧ x.toNat ≤ 16 then some { st with requesterLimit := x } else none
  | 9 => (accessOf x).map fun v => { st with access := v }
  | 10 => (noticeOf x).map fun v => { st with noticeC := v }
  | 11 => (noticeOf x).map fun v => { st with noticeF := v }
  | 12 => if 1 ≤ x.toNat ∧ x.toNat ≤ 15 then some { st with answerReach := x.extractLsb' 0 4 } else none
  | _ => none

/-- A timeout-class value written into the settings; 0 is out of range (R161, R167). -/
def writeClassField (k : Fin 4) (x : Half) (st : Settings) : Option Settings :=
  if x = 0 then none else some { st with classMs := st.classMs.set k x }

/-- One named field read at a position and written: the settings and the position after it (R167). -/
def readField (args : List Byte) (k : Fin 13) (pos : Nat) (st : Settings) : Except Nat (Settings × Nat) :=
  if h : 5 ≤ k.val ∧ k.val ≤ 8 then do
    let x ← halfAt args pos
    match writeClassField ⟨k.val - 5, by omega⟩ x st with
    | some st' => return (st', pos + 2)
    | none => .error pos
  else do
    let x ← byteAt args pos
    match writeByteField k x st with
    | some st' => return (st', pos + 1)
    | none => .error pos

/-- The named fields read in field order from a position (R167). -/
def readFields (args : List Byte) : List (Fin 13) → Nat → Settings → Except Nat (Settings × Nat)
  | [], pos, st => .ok (st, pos)
  | k :: ks, pos, st =>
    match readField args k pos st with
    | .error e => .error e
    | .ok (st', pos') => readFields args ks pos' st'

/-- The fields a presence mask names: bit k names field k+1 of R206. -/
def namedFields (mask : Half) : List (Fin 13) := (List.finRange 13).filter fun k => mask.getLsbD k.val

/-- CONFIG_WRITE: the settings it leaves and the number of fields written (R167). -/
def configWriteArgs (args : List Byte) (st : Settings) : Except Nat (Settings × Nat) := do
  let mask ← halfAt args 1
  demand (decide (mask.toNat < 2 ^ 13)) 1
  let result ← readFields args (namedFields mask) 3 st
  demand (decide (args.length < result.2)) result.2
  return (result.1, (namedFields mask).length)

end Sys2Proof.Machine
end

