-- ==== Sys2Proof/Machine/Flags.lean ====
section
/-! DEFINITION. Machine/Flags.lean: counters that stop at a limit, numbers that wrap, group sets, and the flags computed from them. -/

namespace Sys2Proof.Machine

/-- A 32-bit counter raised by `n`, stopping at its limit (R20, R112). -/
def satAdd (x : Count) (n : Nat) : Count := BitVec.ofNat 32 (min (x.toNat + n) Config.countLimit)

/-- The overflow count raised by one, staying at 65535 (R135). -/
def overflowUp (x : Half) : Half := BitVec.ofNat 16 (min (x.toNat + 1) 65535)

/-- One cell of a table changed. -/
def modifyAt {α : Type} {n : Nat} (v : Vector α n) (i : Fin n) (f : α → α) : Vector α n := v.set i (f v[i])

/-- A port counter's place in the table of R20. -/
def PortCounter.index : PortCounter → Fin 13
  | .goodReceived => 0
  | .checkErrors => 1
  | .illFormed => 2
  | .illAddressed => 3
  | .reachExhausted => 4
  | .ordersTaken => 5
  | .ordersRefused => 6
  | .repeatsAnswered => 7
  | .answersDropped => 8
  | .noticesDropped => 9
  | .localItemsLost => 10
  | .lineLossEvents => 11
  | .discardedWhileHalted => 12

/-- A tally counter's place in counter order, from 0 (R111). -/
def Counter.index : Counter → Fin 18
  | .passed => 0
  | .passedOctets => 1
  | .blocked => 2
  | .held => 3
  | .lineLost => 4
  | .queueFull => 5
  | .overRateDropped => 6
  | .overRateMarked => 7
  | .opened => 8
  | .answered => 9
  | .retried => 10
  | .retryRefused => 11
  | .lapsed => 12
  | .late => 13
  | .unsolicited => 14
  | .tableFull => 15
  | .requesterLimit => 16
  | .flushed => 17

/-- A group is in a group set: bit g is group g (R205). -/
def inSet (x : GroupSet) (g : Group) : Bool := x.getLsbD g.val

/-- The set of the groups that a test admits. -/
def groupSetOf (f : Group → Bool) : GroupSet :=
  (List.finRange 32).foldl (fun acc g => if f g then acc ||| (1#32 <<< g.val) else acc) 0

/-- The saturated flag of a capture: some value is at the limit (R118). -/
def saturated (v : Counters) : Bool := v.toList.any fun x => decide (x.toNat = Config.countLimit)

/-- The forward holds, line states and slot state as one byte of the STATUS data (R206). -/
def statusFlags (holdDown holdUp upC upF : Bool) (slot : SlotState) : Byte :=
  0#2 ++ slotCode slot ++ BitVec.ofBool upF ++ BitVec.ofBool upC ++ BitVec.ofBool holdUp ++ BitVec.ofBool holdDown

end Sys2Proof.Machine
end

