-- ==== Sys2Proof/Machine/Ops.lean ====
section
/-! DEFINITION. Machine/Ops.lean: the operations the commands share: what passes between commands, the ports and their transmit
side, tallies, answers, the end of a commit, entering HALTED, and beginning STARTING. -/

namespace Sys2Proof.Machine

/-! ## Access -/

/-- A port's state. -/
def State.port (s : State) : Port → PortState
  | .c => s.portC
  | .f => s.portF

/-- A port's state replaced. -/
def State.setPort (s : State) (p : Port) (x : PortState) : State :=
  { s with portC := if p = .c then x else s.portC, portF := if p = .f then x else s.portF }

/-- A port's state changed. -/
def State.onPort (s : State) (p : Port) (f : PortState → PortState) : State := s.setPort p (f (s.port p))

/-- A bank. -/
def State.bank (s : State) : Bank → RuleBank
  | .a => s.bankA
  | .b => s.bankB

/-- A bank replaced. -/
def State.setBank (s : State) (which : Bank) (x : RuleBank) : State :=
  { s with bankA := if which = .a then x else s.bankA, bankB := if which = .b then x else s.bankB }

/-- The bank in the Staging role (R26). -/
def State.stagingBank (s : State) : Bank := s.activeBank.other

/-- The forward hold of a direction (R107). -/
def State.hold (s : State) : Direction → Bool
  | .downward => s.holdDown
  | .upward => s.holdUp

/-- The station number in use: the sampled strap value, or 239 when it is unusable (R194). -/
def stationOf (stn : Byte) : Byte := if 1 ≤ stn.toNat ∧ stn.toNat ≤ 239 then stn else Config.fallbackStation

/-- The station number in use (R194). -/
def State.station (s : State) : Byte := stationOf s.sampled.stn

/-- The byte time that the rate straps select, in quarter microseconds (R1, R194). -/
def byteTime (rts : BitVec 2) : Nat :=
  if rts = 0 then 80 else if rts = 1 then 40 else if rts = 2 then 20 else 10

/-- The notice station toward a side (R161). -/
def Settings.noticeStation (x : Settings) : Port → Option Byte
  | .c => x.noticeC
  | .f => x.noticeF

/-! ## What passes between commands (log entries 2, 3, 4) -/

/-- One stored item's check code goes wrong. -/
def upset (s : State) : StoreItem → State
  | .rule bank i => s.setBank bank (modifyAt (s.bank bank) i fun x => { x with sound := false })
  | .exchange slot => { s with petSound := s.petSound.set slot false }
  | .tally g => { s with tallies := modifyAt s.tallies g fun x => { x with sound := false } }
  | .snapshot g => { s with snapshots := modifyAt s.snapshots g (Option.map fun x => { x with sound := false }) }

/-- The time that passed, the strap levels that changed and the items that went bad since the command before. -/
def lapse (w : Since) (s : State) : State :=
  w.upsets.foldl upset { s with now := s.now + w.elapsed, strapPins := w.straps.getD s.strapPins }

/-- A timer's event comes at its due moment, or later if the clock is already past it (log entry 2). -/
def State.reach (s : State) (due : Moment) : State := { s with now := max s.now due }

/-! ## Port counters (R20) -/

/-- One port counter raised by `n`. -/
def PortState.count (q : PortState) (k : PortCounter) (n : Nat) : PortState :=
  { q with counters := modifyAt q.counters k.index fun x => satAdd x n }

/-- One port counter raised by one. -/
def bump (p : Port) (k : PortCounter) (s : State) : State := s.onPort p fun q => q.count k 1

/-! ## The transmitter and the transmit queues (R14 to R17) -/

/-- A transmission begun at `now`: the telegram's bytes, then four byte times of idle line (R17). -/
def Transmission.begin (now : Moment) (bt : Nat) (item : TxItem) (t : Telegram) : Transmission :=
  { item := item, frame := t.frame, ends := now + (t.frame.length + Config.gapBytes) * bt }

/-- A transmitter that is free on a line that is UP takes the head of the Local Queue, or else of the Forward Queue (R17). -/
def PortState.take (now : Moment) (bt : Nat) (q : PortState) : PortState :=
  if q.line = .up ∧ q.sending = none then
    match q.localQ with
    | x :: xs => { q with localQ := xs, sending := some (Transmission.begin now bt (.own x) x.telegram) }
    | [] =>
      match q.forwardQ with
      | x :: xs => { q with forwardQ := xs, sending := some (Transmission.begin now bt (.forwarded x) x.telegram) }
      | [] => q
  else q

/-- The transmitter of a port takes if it can. -/
def take (p : Port) (s : State) : State := s.onPort p (PortState.take s.now (byteTime s.sampled.rts))

/-- A Local Queue has room for an ordinary placement (R15). -/
def PortState.hasRoom (q : PortState) : Bool := decide (q.line = .up) && decide (q.localQ.length < Config.localCapacity)

/-- An ordinary placement: the telegram joins the tail, and a free transmitter takes at once; a refused one is counted (R15). -/
def PortState.offer (now : Moment) (bt : Nat) (refused : PortCounter) (t : Telegram) (q : PortState) : PortState :=
  if q.hasRoom then
    PortState.take now bt { q with localQ := q.localQ ++ [{ telegram := t, restartAnswer := false }] }
  else q.count refused 1

/-- An ordinary placement at a port, with the counter that a refusal raises. -/
def offer (p : Port) (refused : PortCounter) (t : Telegram) (s : State) : State :=
  s.onPort p (PortState.offer s.now (byteTime s.sampled.rts) refused t)

/-- A head placement: ahead of every item, displacing the tail item of a full queue (R15). -/
def PortState.placeHead (now : Moment) (bt : Nat) (t : Telegram) (q : PortState) : PortState :=
  let q' := if q.localQ.length < Config.localCapacity then q
    else ({ q with localQ := q.localQ.dropLast } : PortState).count .localItemsLost 1
  PortState.take now bt { q' with localQ := { telegram := t, restartAnswer := true } :: q'.localQ }

/-- A telegram the gate originates: the port supplies source, reach and mark (R16). -/
def ownTelegram (s : State) (kind : Kind) (dest : Byte) (tag : Tag) (payload : List Byte) : Telegram :=
  { dest := dest, source := s.station, kind := kind, mark := false, reach := s.settings.answerReach, tag := tag,
    payload := payload }

/-- Each direction's Forward Queue is that of its output port (R107). -/
def clearForward (p : Port) (s : State) : State := s.onPort p fun q => { q with forwardQ := [] }

/-! ## An event and the store fault it may have found (R116) -/

/-- An event under way: the state its effects have reached, and the fault that one of its reads found, if one did. -/
structure Course where
  state : State
  found : Option GateFault

/-- An event that has found no fault. -/
def Course.of (s : State) : Course := { state := s, found := none }

/-- An effect that reads no store. -/
def Course.map (f : State → State) (e : Course) : Course := { e with state := f e.state }

/-- The changes of one tally of a group, made with one read of it (R112; log entry 22). -/
def addTo (changes : List (Counter × Nat)) (v : Counters) : Counters :=
  changes.foldl (fun acc k => modifyAt acc k.1.index fun x => satAdd x k.2) v

/-- A tally: made nowhere for an absent group (R114); not made once the event has found a fault, and not made for a group whose
check code is wrong, which is then the fault found (R116). -/
def Course.tally (group : Option Group) (changes : List (Counter × Nat)) (e : Course) : Course :=
  match e.found, group with
  | none, some g =>
    if e.state.tallies[g].sound then
      { e with state := { e.state with
          tallies := e.state.tallies.set g (Checked.fresh (addTo changes e.state.tallies[g].item)) } }
    else { e with found := some (.tallyStore g) }
  | _, _ => e

/-- One counter raised by one. -/
def Course.tally1 (group : Option Group) (k : Counter) (e : Course) : Course := e.tally group [(k, 1)]

/-- A counter raised for each telegram of a removed queue, from head to tail (R116). -/
def Course.tallyQueue (k : Counter) (xs : List Forwarded) (e : Course) : Course :=
  xs.foldl (fun acc x => acc.tally1 x.group k) e

/-! ## Answers (R151 to R153, R158) -/

/-- The Command Slot's state as reported (R151). -/
def Slot.state : Slot → SlotState
  | .idle => .idle
  | .validating _ => .validating
  | .restarting _ => .restarting

/-- An answer built from the state as it stands (R151). -/
def buildAnswer (s : State) (code : Byte) (status : Status) (detail : Half) (data : List Byte) : Answer :=
  { code := code, status := status, gate := s.gate, slot := s.slot.state, generation := s.generation, detail := detail,
    data := data }

/-- An answer's telegram, to a station under a tag (R151, R16). -/
def answerTelegram (s : State) (requester : Byte) (tag : Tag) (a : Answer) : Telegram :=
  ownTelegram s .answer requester tag a.payload

/-- An answer offered to a port's Local Queue; a refusal is counted in answers dropped (R153). -/
def sendAnswer (p : Port) (requester : Byte) (tag : Tag) (a : Answer) (s : State) : State :=
  offer p .answersDropped (answerTelegram s requester tag a) s

/-- An answer stored in a port's Last Answer Record (R158). -/
def storeAnswer (p : Port) (requester : Byte) (tag : Tag) (a : Answer) (s : State) : State :=
  s.onPort p fun q => { q with lastAnswer := some { requester := requester, tag := tag, answer := a } }

/-- A Last Answer Record holds a requester and a tag (R145). -/
def LastAnswer.holds (x : LastAnswer) (requester : Byte) (tag : Tag) : Bool :=
  decide (x.requester = requester) && decide (x.tag = tag)

/-! ## The end of a commit (R99 to R101) -/

/-- The status of a completion answer (R100). -/
def CommitResult.status : CommitResult → Status
  | .completed => .completed
  | .refused => .refused
  | .abandoned => .abandoned
  | .faulted => .halted

/-- What a commit's end makes of its port's Last Answer Record: if it holds the commit's requester and tag it is overwritten with
the completion answer, or cleared at a FAULTED end (R101). -/
def completionRecord (c : CommitContext) (result : CommitResult) (a : Answer) (old : Option LastAnswer) : Option LastAnswer :=
  match old with
  | none => none
  | some x =>
    if x.holds c.requester c.tag then
      (if result = .faulted then none else some { requester := c.requester, tag := c.tag, answer := a })
    else some x

/-- The code of COMMIT (R205). -/
def commitCode : Byte := 0x08

/-- A commit ends: the Outcome Record is written, the slot returns to IDLE, the completion answer is offered to the port the
COMMIT arrived at, and that port's Last Answer Record is dealt with (R99 to R101). `shown` is the gate state its header shows
(R96, R100). -/
def endCommit (c : CommitContext) (result : CommitResult) (detail : Half) (shown : GateState) (s : State) : State :=
  let ended := { s with
    slot := .idle,
    outcome := some { requester := c.requester, port := c.port, tag := c.tag, result := result, detail := detail } }
  let a := { buildAnswer ended commitCode result.status detail [] with gate := shown }
  (sendAnswer c.port c.requester c.tag a ended).onPort c.port fun q =>
    { q with lastAnswer := completionRecord c result a q.lastAnswer }

/-! ## Entering HALTED (R198): the gate's one shared reaction to a fault -/

/-- Entering HALTED: both holds set, both Forward Queues and the PET and the Lapsed Ring emptied without tallies, a commit in
flight ended FAULTED, the fault record written (R198). -/
def enterHalted (fault : GateFault) (s : State) : State :=
  let emptied := clearForward .c (clearForward .f { s with
    gate := .halted, fault := some fault, holdDown := true, holdUp := true, pet := [], ring := [] })
  match emptied.slot with
  | .validating c => endCommit c .faulted 0 .halted emptied
  | _ => emptied

/-- A read found a check code wrong: a SERVING gate halts; a halted one stays as it stands (R197, R116). -/
def haltOn (fault : GateFault) (s : State) : State :=
  if s.gate = .serving then enterHalted fault s else s

/-- The end of an event: the halt, if a fault was found (R116). -/
def Course.finish (e : Course) : State :=
  match e.found with
  | none => e.state
  | some fault => haltOn fault e.state

/-! ## Flush and hold (R62, R64, R108) -/

/-- A lapse notice for an entry, offered to its requester port (R59). -/
def offerNotice (x : PetEntry) (s : State) : State :=
  offer x.port .noticesDropped (ownTelegram s .note x.key.requester 0 (lapsePayload x)) s

/-- One entry of a flush that tallies: its check code is read (R68), flushed is tallied, and at a line loss whose surviving port
is `notify` a notice is offered if it asks for one there (R64). Nothing more is made once a fault has been found. -/
def flushEntry (notify : Option Port) (e : Course) (x : PetEntry) : Course :=
  if e.found ≠ none then e
  else if e.state.petSound[x.slot] then
    let tallied := e.tally1 x.group .flushed
    if tallied.found = none ∧ x.notice = true ∧ notify = some x.port then tallied.map (offerNotice x) else tallied
  else { e with found := some (.exchangeStore x.slot) }

/-- A flush that tallies: the entries in listing order, then the table and the Lapsed Ring are empty (R62). -/
def flush (notify : Option Port) (e : Course) : Course :=
  (e.state.pet.foldl (flushEntry notify) e).map fun s => { s with pet := [], ring := [] }

/-- The hold of a direction set and its Forward Queue emptied with held tallies, when `named` (R108). -/
def holdDirection (d : Direction) (named : Bool) (e : Course) : Course :=
  if named then
    let out := match d with | .downward => Port.f | .upward => Port.c
    let removed := (e.state.port out).forwardQ
    (e.map fun s => clearForward out
      (match d with | .downward => { s with holdDown := true } | .upward => { s with holdUp := true })).tallyQueue .held removed
  else e

/-- Both directions of a hold, Port F's queue before Port C's (R116). -/
def holdNamed (down up : Bool) (e : Course) : Course := holdDirection .upward up (holdDirection .downward down e)

/-! ## Beginning STARTING (R195, R201, R202) -/

/-- A port at the start of STARTING, its line monitor as it stands (R201). -/
def PortState.restarted (q : PortState) : PortState := PortState.fresh q.signal q.line q.timing

/-- A port at power-on: the line monitor samples the line (R11). -/
def PortState.poweredOn (q : PortState) : PortState :=
  PortState.fresh q.signal (if q.signal then .up else .down) none

/-- Every block at its reset value and the straps sampled (R195, R194); the clock, the pins and the command queue are not the
gate's to reset. -/
def beginStarting (portOf : PortState → PortState) (s : State) : State :=
  { State.reset with
    now := s.now, strapPins := s.strapPins, sampled := s.strapPins, portC := portOf s.portC, portF := portOf s.portF,
    pending := s.pending }

/-- The restart is carried out (R201). -/
def carryOutRestart (s : State) : State := beginStarting PortState.restarted s

end Sys2Proof.Machine
end

