-- ==== Sys2Proof/Machine/Tracker.lean ====
section
/-! DEFINITION. Machine/Tracker.lean: the Exchange Tracker (chapter 3), the rate test and charge (chapter 4) and the Capture
Queue's side of a request (chapter 7), as the Classifier uses them. -/

namespace Sys2Proof.Machine

/-! ## The Exchange Tracker -/

/-- The TRACK fields a treatment hands the tracker (R31, R38). -/
structure TrackTerms where
  timeoutClass : BitVec 2
  allowance : BitVec 2
  notice : Bool
deriving DecidableEq, Repr

/-- What the tracker is asked to carry out at step 7 (R38). -/
inductive TrackAction where
  | openNew (key : Key) (rule : RuleIndex) (terms : TrackTerms)
  | retry (x : PetEntry)
  | close (x : PetEntry)
deriving DecidableEq, Repr

/-- How a forward decision is ended by a discarding step: the tally and the capture outcome go by the same names (R32, R38). -/
inductive Discard where
  | blocked
  | held
  | lineLost
  | queueFull
  | overRateDropped
  | retryRefused
  | tableFull
  | requesterLimit
  | late
  | unsolicited
deriving DecidableEq, Repr

/-- The counter of a discarding step (R32). -/
def Discard.counter : Discard → Counter
  | .blocked => .blocked
  | .held => .held
  | .lineLost => .lineLost
  | .queueFull => .queueFull
  | .overRateDropped => .overRateDropped
  | .retryRefused => .retryRefused
  | .tableFull => .tableFull
  | .requesterLimit => .requesterLimit
  | .late => .late
  | .unsolicited => .unsolicited

/-- The capture outcome of a discarding step (R134). -/
def Discard.outcome : Discard → CaptureOutcome
  | .blocked => .blocked
  | .held => .held
  | .lineLost => .lineLost
  | .queueFull => .queueFull
  | .overRateDropped => .overRateDropped
  | .retryRefused => .retryRefused
  | .tableFull => .tableFull
  | .requesterLimit => .requesterLimit
  | .late => .late
  | .unsolicited => .unsolicited

/-- The tracker's answer at step 6 (R38), or the storage slot of an entry whose check code its search found wrong (R68). -/
inductive TrackAnswer where
  | act (x : TrackAction)
  | refuse (x : Discard)
  | corrupt (slot : Fin 64)
deriving DecidableEq, Repr

/-- The key a POLL forms (R50). -/
def pollKey (t : Telegram) : Key := { requester := t.source, responder := t.dest, tag := t.tag }

/-- The key a REPLY forms (R56). -/
def replyKey (t : Telegram) : Key := { requester := t.dest, responder := t.source, tag := t.tag }

/-- The open entries of a requester (R45). -/
def holding (pet : List PetEntry) (requester : Byte) : Nat := pet.countP fun x => decide (x.key.requester = requester)

/-- The first open entry, in listing order, whose check code is wrong (R68; log entry 10). -/
def corruptEntry (s : State) : Option PetEntry := s.pet.find? fun x => !s.petSound[x.slot]

/-- The tests for a POLL, in the order of R50, with R51 for a repeat. -/
def pollAnswer (p : Port) (t : Telegram) (rule : RuleIndex) (terms : TrackTerms) (s : State) : TrackAnswer :=
  match s.pet.find? fun x => decide (x.key = pollKey t) with
  | some x => if x.port = p ∧ x.used < x.allowance then .act (.retry x) else .refuse .retryRefused
  | none =>
    if Config.petCapacity ≤ s.pet.length then .refuse .tableFull
    else if s.settings.requesterLimit.toNat ≤ holding s.pet t.source then .refuse .requesterLimit
    else .act (.openNew (pollKey t) rule terms)

/-- The answer for a REPLY (R56). -/
def replyAnswer (p : Port) (t : Telegram) (s : State) : TrackAnswer :=
  match s.pet.find? fun x => decide (x.key = replyKey t) && decide (x.port = p.other) with
  | some x => .act (.close x)
  | none => if replyKey t ∈ s.ring then .refuse .late else .refuse .unsolicited

/-- The tracker's answer for a POLL or REPLY; its search reads every open entry (R68). -/
def trackAnswer (p : Port) (t : Telegram) (rule : RuleIndex) (terms : TrackTerms) (s : State) : TrackAnswer :=
  match corruptEntry s with
  | some x => .corrupt x.slot
  | none => if t.kind = .poll then pollAnswer p t rule terms s else replyAnswer p t s

/-- The deadline of an opening or a retry taken now (R48). -/
def deadlineOf (s : State) (k : BitVec 2) : Moment :=
  s.now + s.settings.classMs[k.toNat].toNat * Config.unitsPerMs

/-- The lowest free storage slot (R43). It exists while the PET holds fewer than 64 entries. -/
def freeSlot (pet : List PetEntry) : Fin 64 :=
  ((List.finRange 64).find? fun i => !(pet.any fun x => decide (x.slot = i))).getD 0

/-- A key taken from the Lapsed Ring, the others keeping their order (R49). -/
def dropKey (k : Key) (ring : List Key) : List Key := ring.filter fun x => decide (x ≠ k)

/-- A key joining the Lapsed Ring as newest, the oldest dropped first from a ring of 16 (R49). -/
def pushKey (k : Key) (ring : List Key) : List Key :=
  (if ring.length < Config.ringCapacity then ring else ring.drop 1) ++ [k]

/-- An entry out of the listing (R44). -/
def removeEntry (k : Key) (pet : List PetEntry) : List PetEntry := pet.filter fun x => decide (x.key ≠ k)

/-- An open, retry or close carried out (R52, R53, R57), with its tally in the entry's group (R69). `group` is the POLL's own. -/
def carryOut (p : Port) (group : Option Group) : Option TrackAction → Course → Course
  | none, e => e
  | some (.openNew key rule terms), e =>
    (e.map fun s =>
      { s with
        pet := s.pet ++ [{ key := key, port := p, rule := rule, group := group, timeoutClass := terms.timeoutClass,
                           deadline := deadlineOf s terms.timeoutClass, used := 0, allowance := terms.allowance,
                           notice := terms.notice, number := s.openCounter, slot := freeSlot s.pet }],
        petSound := s.petSound.set (freeSlot s.pet) true,
        ring := dropKey key s.ring,
        openCounter := s.openCounter + 1 }).tally1 group .opened
  | some (.retry x), e =>
    (e.map fun s =>
      { s with
        pet := s.pet.map fun y =>
          if y.key = x.key then { y with used := y.used + 1, deadline := deadlineOf s y.timeoutClass } else y }).tally1
      x.group .retried
  | some (.close x), e => (e.map fun s => { s with pet := removeEntry x.key s.pet }).tally1 x.group .answered

/-! ## The Rate Unit -/

/-- The cost of a telegram of a payload length (R72). -/
def costOf (mode : CostMode) (payloadLength : Nat) : Nat :=
  match mode with
  | .perTelegram => 1
  | .perSize => 1 + payloadLength / 32

/-- The charge taken at step 7 (R76). -/
def charge (due : Option (Fin 16 × Nat)) (s : State) : State :=
  match due with
  | none => s
  | some (n, cost) =>
    { s with profiles := modifyAt s.profiles n fun x => { x with credits := x.credits - BitVec.ofNat 8 cost } }

/-- A refill: the amount added, then lowered to the capacity (R74). -/
def Profile.refill (x : Profile) : Profile :=
  { x with credits := BitVec.ofNat 8 (min x.capacity.toNat (x.credits.toNat + x.amount.toNat)) }

/-- Full credits and a period restarted at `now`, for a defined profile; an undefined one is left as it stands (R81). -/
def Profile.restart (now : Moment) (x : Profile) : Profile :=
  if x.capacity = 0 then x
  else { x with credits := x.capacity, nextExpiry := some (now + x.period.toNat * Config.unitsPerMs) }

/-! ## The Capture Queue -/

/-- A capture record of a telegram as received (R133). -/
def captureRecord (p : Port) (rule : RuleIndex) (generation : Half) (outcome : CaptureOutcome) (t : Telegram) : CaptureRecord :=
  { port := p, rule := rule, generation := generation, outcome := outcome, dest := t.dest, source := t.source, kind := t.kind,
    mark := t.mark, reach := t.reach, tag := t.tag, payloadLength := byteOf t.payload.length,
    kept := t.payload.take Config.keptPayload, truncated := decide (Config.keptPayload < t.payload.length) }

/-- A capture request: the record joins the tail, or is discarded and counted when the queue holds 16 (R135). -/
def requestCapture (x : CaptureRecord) (s : State) : State :=
  if s.captures.length < Config.captureCapacity then { s with captures := s.captures ++ [x] }
  else { s with overflow := overflowUp s.overflow }

end Sys2Proof.Machine
end

