-- ==== Sys2Proof/Machine/Rules.lean ====
section
/-! DEFINITION. Machine/Rules.lean: what a store order comes to, reading a bank, validation and the completion of a commit
(chapter 5), and the orders on rules: RULES_READ, STAGE_WRITE, STAGE_CLEAR, STAGE_CLONE, COMMIT, ABANDON, HOLD, RELEASE. -/

namespace Sys2Proof.Machine

/-- What the execution of an order comes to: an answer's status, detail and data over the state its effects have made, or a read
that found a check code wrong, which ends the order at the halt without an answer (R150, R156). -/
inductive Served where
  | answered (status : Status) (detail : Half) (data : List Byte) (s : State)
  | halts (fault : GateFault) (s : State)

/-- BAD_PARAM at a position: nothing has changed (R150). -/
def badParam (pos : Nat) (s : State) : Served := .answered .badParam (halfOfNat pos) [] s

/-- DONE with a detail and data. -/
def doneWith (detail : Nat) (data : List Byte) (s : State) : Served := .answered .done (halfOfNat detail) data s

/-- An event's end for an order: the fault its reads found, or its answer (R156). -/
def Course.serve (e : Course) (status : Status) (detail : Nat) (data : List Byte) : Served :=
  match e.found with
  | some fault => .halts fault e.state
  | none => .answered status (halfOfNat detail) data e.state

/-! ## Reading a bank -/

/-- The first entry of a list of indices whose check code is wrong (R28). -/
def corruptRule (bank : RuleBank) (is : List RuleIndex) : Option RuleIndex := is.find? fun i => !bank[i].sound

/-- The in-use entries of a bank. -/
def inUseCount (bank : RuleBank) : Nat := bank.toList.countP fun x => x.item.inUse

/-- The indices `first`, `first`+1, … of a span. -/
def spanIndices (n first count : Nat) : List (Fin n) :=
  (List.finRange n).filter fun i => decide (first ≤ i.val) && decide (i.val < first + count)

/-! ## Validation (R91, R93) -/

/-- The first of the seven checks that an entry fails (R91). -/
def entryFailure (profiles : Vector Profile 16) (e : RuleEntry) : Option Reason :=
  if e.sourceHigh < e.sourceLow then some .sourceRange
  else if e.destHigh < e.destLow ∨ (e.destLow = 255 ∧ e.destHigh ≠ 255) then some .destRange
  else if e.kinds = 0 then some .noKind
  else if e.downward = false ∧ e.upward = false then some .noDirection
  else if e.action = .block ∧ e.profile ≠ none then some .profileOnBlock
  else if (match e.profile with | some n => decide (profiles[n].capacity = 0) | none => false) then some .undefinedProfile
  else if e.action ≠ .track ∧ (e.timeoutClass ≠ 0 ∨ e.allowance ≠ 0 ∨ e.notice = true) then some .trackFields
  else none

/-- The first failure among the in-use entries, in ascending index order (R91). -/
def bankFailureIn (profiles : Vector Profile 16) (bank : RuleBank) : List RuleIndex → Option (Reason × RuleIndex)
  | [] => none
  | i :: rest =>
    if bank[i].item.inUse then
      match entryFailure profiles bank[i].item with
      | some r => some (r, i)
      | none => bankFailureIn profiles bank rest
    else bankFailureIn profiles bank rest

/-- The result of validation of a bank; none when it passes (R91). -/
def bankFailure (profiles : Vector Profile 16) (bank : RuleBank) : Option (Reason × RuleIndex) :=
  bankFailureIn profiles bank (List.finRange 128)

/-! ## The end of validation (R94, R95, R96) -/

/-- A commit that ends REFUSED (R94). -/
def refuseCommit (c : CommitContext) (r : Reason) (i : RuleIndex) (s : State) : State :=
  endCommit c .refused (refusedDetail r i) s.gate s

/-- The exchange of roles, the new generation and the credit reset (R95, R81). -/
def swapBanks (s : State) : State :=
  { s with activeBank := s.activeBank.other, generation := s.generation + 1,
           profiles := s.profiles.map (Profile.restart s.now) }

/-- A commit that completes: the exchange of roles and the credit reset, the HOLD option's held tallies, the flush without KEEP,
the end of the commit, and last the halt if a read found a fault (R95, R96). -/
def completeCommit (c : CommitContext) (s : State) : State :=
  let held := holdNamed c.hold c.hold (Course.of (swapBanks s))
  let flushed := if c.keep then held else flush none held
  let shown := if flushed.found = none then flushed.state.gate else .halted
  (flushed.map (endCommit c .completed (halfOfNat c.inUse) shown)).finish

/-! ## The orders -/

/-- RULES_READ (R169). -/
def runRulesRead (args : List Byte) (s : State) : Served :=
  match rulesReadArgs args with
  | .error pos => badParam pos s
  | .ok (staging, first, count) =>
    let which := if staging then s.stagingBank else s.activeBank
    let is := spanIndices 128 first count
    match corruptRule (s.bank which) is with
    | some i => .halts (.ruleStore which i) s
    | none => doneWith count (bankCode which :: is.flatMap fun i => (s.bank which)[i].item.encode) s

/-- Entries written at consecutive indices, each with a fresh check code (R85, R87). -/
def writeEntries (first : Nat) (es : List RuleEntry) (bank : RuleBank) : RuleBank :=
  Vector.ofFn fun i : Fin 128 =>
    if first ≤ i.val then
      match es[i.val - first]? with
      | some e => Checked.fresh e
      | none => bank[i]
    else bank[i]

/-- STAGE_WRITE (R86, R87, R170). -/
def runStageWrite (args : List Byte) (s : State) : Served :=
  match stageWriteArgs args with
  | .error pos => badParam pos s
  | .ok (first, es) => doneWith es.length [] (s.setBank s.stagingBank (writeEntries first es (s.bank s.stagingBank)))

/-- STAGE_CLEAR (R88, R170). -/
def runStageClear (args : List Byte) (s : State) : Served :=
  match noArgs args with
  | .error pos => badParam pos s
  | .ok _ => doneWith 0 [] (s.setBank s.stagingBank RuleBank.reset)

/-- The entries below an index copied, the others kept (R89). -/
def copyBelow (n : Nat) (source target : RuleBank) : RuleBank :=
  Vector.ofFn fun i : Fin 128 => if i.val < n then Checked.fresh source[i].item else target[i]

/-- STAGE_CLONE: stops at the first Active entry whose check code is wrong (R89, R170). -/
def runStageClone (args : List Byte) (s : State) : Served :=
  match noArgs args with
  | .error pos => badParam pos s
  | .ok _ =>
    let active := s.bank s.activeBank
    match corruptRule active (List.finRange 128) with
    | some i =>
      .halts (.ruleStore s.activeBank i) (s.setBank s.stagingBank (copyBelow i.val active (s.bank s.stagingBank)))
    | none =>
      doneWith (inUseCount active) [] (s.setBank s.stagingBank (copyBelow 128 active (s.bank s.stagingBank)))

/-- COMMIT: the slot goes to VALIDATING with the commit's context, the Staging bank is read, and its validation's result is kept
for the validation-complete event (R90, R93, R171; log entry 21). -/
def runCommit (p : Port) (h : OrderHead) (args : List Byte) (s : State) : Served :=
  match commitArgs args with
  | .error pos => badParam pos s
  | .ok (hold, keep) =>
    let bank := s.bank s.stagingBank
    let c : CommitContext := { requester := h.source, port := p, tag := h.tag, hold := hold, keep := keep,
                               inUse := inUseCount bank, failure := bankFailure s.profiles bank }
    match corruptRule bank (List.finRange 128) with
    | some i => .halts (.ruleStore s.stagingBank i) { s with slot := .validating c }
    | none => .answered .accepted (halfOfNat c.inUse) [] { s with slot := .validating c }

/-- ABANDON (R102, R103, R171). -/
def runAbandon (args : List Byte) (s : State) : Served :=
  match noArgs args with
  | .error pos => badParam pos s
  | .ok _ =>
    match s.slot with
    | .validating c => doneWith 0 [] (endCommit c .abandoned 0 s.gate s)
    | _ => .answered .notBusy 0 [] s

/-- The telegrams that a hold of the named directions removes (R172). -/
def queuedIn (down up : Bool) (s : State) : Nat :=
  (if down then s.portF.forwardQ.length else 0) + (if up then s.portC.forwardQ.length else 0)

/-- HOLD (R108, R172). -/
def runHold (args : List Byte) (s : State) : Served :=
  match directionArgs args with
  | .error pos => badParam pos s
  | .ok (down, up) => (holdNamed down up (Course.of s)).serve .done (queuedIn down up s) []

/-- RELEASE (R109, R172). -/
def runRelease (args : List Byte) (s : State) : Served :=
  match directionArgs args with
  | .error pos => badParam pos s
  | .ok (down, up) =>
    doneWith 0 [] { s with holdDown := if down then false else s.holdDown, holdUp := if up then false else s.holdUp }

end Sys2Proof.Machine
end

