-- ==== Sys2Proof/Machine/Events.lean ====
section
/-! DEFINITION. Machine/Events.lean: the events that no telegram brings: the transmitter's, the line monitor's, the timers', power
and reset. An event whose condition the spec gives does not occur without it: then only what passed since the command before
is taken over (log entry 7). -/

namespace Sys2Proof.Machine

/-- The tallies of a forwarded telegram's completion, made with one read of its group (R17, R112). -/
def passedTallies (t : Telegram) : List (Counter × Nat) := [(.passed, 1), (.passedOctets, t.octets)]

/-- A transmitter let go of its telegram. -/
def freeTransmitter (p : Port) (s : State) : State := s.onPort p fun q => { q with sending := none }

/-- The transmit completion of a transmission at a port (R17): a forwarded telegram is tallied passed, the completion of the
answer that R200 placed carries out a pending restart (R201), and the transmitter takes again. -/
def completeTransmission (p : Port) (x : Transmission) (s : State) : State :=
  let free := freeTransmitter p (s.reach x.ends)
  match x.item with
  | .forwarded y => take p ((Course.of free).tally y.group (passedTallies y.telegram)).finish
  | .own y =>
    match y.restartAnswer, free.slot with
    | true, .restarting _ => carryOutRestart free
    | _, _ => take p free

/-- TRANSMIT_COMPLETION (R17). -/
def execTransmitCompletion (w : Since) (p : Port) (s : State) : Host.Outcome State Fault Refusal :=
  let s' := lapse w s
  match (s'.port p).sending with
  | some x => .next (completeTransmission p x s')
  | none => .next s'

/-- SIGNAL_CHANGE (R11): while UP an absence is timed from its beginning, while DOWN a presence; the opposite change ends the
interval. Held in reset, no monitor runs and only the level changes (R202; log entry 14). -/
def PortState.signalChange (now : Moment) (inReset present : Bool) (q : PortState) : PortState :=
  if q.signal = present then q
  else
    let timed := match q.line with | .up => !present | .down => present
    { q with signal := present, timing := if timed && !inReset then some now else none }

/-- SIGNAL_CHANGE (R11). -/
def execSignalChange (w : Since) (p : Port) (present : Bool) (s : State) : Host.Outcome State Fault Refusal :=
  let s' := lapse w s
  .next (s'.onPort p (PortState.signalChange s'.now s'.inReset present))

/-- The forwarded telegrams that a line loss removes, in tally order: the abandoned one, then the queue from its head
(R13, R116). -/
def PortState.forwardLost (q : PortState) : List Forwarded :=
  (match q.sending with | some { item := .forwarded x, .. } => [x] | _ => []) ++ q.forwardQ

/-- The gate-originated telegrams that a line loss removes (R13). -/
def PortState.ownLost (q : PortState) : Nat :=
  (match q.sending with | some { item := .own _, .. } => 1 | _ => 0) + q.localQ.length

/-- What a line loss does at its port: the assembly discarded, the transmission abandoned, both queues emptied, the counters,
the line DOWN, the Last Answer Record and the notice-pending flag cleared (R13, R157, R190). The frame that was under way is kept
aside with the moment, for the one frame end that R65 still has decided (log entry 24). -/
def PortState.lose (now : Moment) (q : PortState) : PortState :=
  (({ q with line := .down, timing := none, assembly := none,
             lostFrame := q.assembly.map fun a => { frame := a, moment := now },
             forwardQ := [], localQ := [], sending := none, lastAnswer := none, noticePending := false } : PortState).count .localItemsLost q.ownLost).count .lineLossEvents 1

/-- The line-loss event at a port: the port's own steps, the line lost tallies (R13), the flush toward the surviving port (R64),
the halt if a read found a fault (R116), and a restart that waited on its answer at this port (R201; log entry 12). After it the
tracker holds no key: a REPLY toward the lost port is discarded at step 3, and one that arrives there at this moment is refused as
unsolicited (R65; `frameEndAfterLoss`). -/
def loseLine (p : Port) (s : State) : State :=
  let removed := (s.port p).forwardLost
  let after :=
    (flush (some p.other) ((Course.of (s.onPort p (PortState.lose s.now))).tallyQueue .lineLost removed)).finish
  match after.slot with
  | .restarting r => if r.port = p then carryOutRestart after else after
  | _ => after

/-- LINE_LOSS: an absence timed on an UP line reaches 5 ms (R11, R13). -/
def execLineLoss (w : Since) (p : Port) (s : State) : Host.Outcome State Fault Refusal :=
  let s' := lapse w s
  match s'.inReset, (s'.port p).line, (s'.port p).timing with
  | false, .up, some start => .next (loseLine p (s'.reach (start + Config.lossTime)))
  | _, _, _ => .next s'

/-- LINE_RETURN: a presence timed on a DOWN line reaches 2 ms (R11, R12). -/
def execLineReturn (w : Since) (p : Port) (s : State) : Host.Outcome State Fault Refusal :=
  let s' := lapse w s
  match s'.inReset, (s'.port p).line, (s'.port p).timing with
  | false, .down, some start =>
    .next (take p ((s'.reach (start + Config.returnTime)).onPort p fun q => { q with line := .up, timing := none }))
  | _, _, _ => .next s'

/-- The lapse of an open exchange at its deadline: the entry is read (R68), leaves the PET, its key joins the ring, lapsed is
tallied, and a notice offered if the entry asks for one and no fault was found (R58, R116). -/
def lapseExchange (x : PetEntry) (s : State) : State :=
  if s.petSound[x.slot] then
    let gone := { s with pet := removeEntry x.key s.pet, ring := pushKey x.key s.ring }
    let tallied := (Course.of gone).tally1 x.group .lapsed
    (if tallied.found = none ∧ x.notice = true then tallied.map (offerNotice x) else tallied).finish
  else haltOn (.exchangeStore x.slot) s

/-- DEADLINE_EXPIRY (R48, R58). -/
def execDeadlineExpiry (w : Since) (k : Key) (s : State) : Host.Outcome State Fault Refusal :=
  let s' := lapse w s
  match s'.pet.find? fun x => decide (x.key = k) with
  | some x => .next (lapseExchange x (s'.reach x.deadline))
  | none => .next s'

/-- PERIOD_EXPIRY of a defined profile: the refill, and the next expiry one period after this one was due (R73, R74). -/
def execPeriodExpiry (w : Since) (n : Fin 16) (s : State) : Host.Outcome State Fault Refusal :=
  let s' := lapse w s
  match s'.profiles[n].nextExpiry with
  | some due =>
    if s'.profiles[n].capacity = 0 then .next s'
    else
      let at' := s'.reach due
      .next { at' with
        profiles := modifyAt at'.profiles n fun x =>
          { x.refill with nextExpiry := some (due + x.period.toNat * Config.unitsPerMs) } }
  | none => .next s'

/-- VALIDATION_COMPLETE (R94, R95, R96). -/
def execValidationComplete (w : Since) (s : State) : Host.Outcome State Fault Refusal :=
  let s' := lapse w s
  match s'.slot with
  | .validating c =>
    match c.failure with
    | some (r, i) => .next (refuseCommit c r i s')
    | none => .next (completeCommit c s')
  | _ => .next s'

/-- RESTART_TIME_LIMIT (R201). -/
def execRestartTimeLimit (w : Since) (s : State) : Host.Outcome State Fault Refusal :=
  let s' := lapse w s
  match s'.slot with
  | .restarting r => .next (carryOutRestart (s'.reach r.limit))
  | _ => .next s'

/-- POWER_ON (R202). -/
def execPowerOn (w : Since) (s : State) : Host.Outcome State Fault Refusal :=
  .next (beginStarting PortState.poweredOn (lapse w s))

/-- RESET_ASSERTED: everything in progress ends and nothing is held until power-on (R202; log entry 14). -/
def execResetAsserted (w : Since) (s : State) : Host.Outcome State Fault Refusal :=
  .next { beginStarting PortState.poweredOn (lapse w s) with inReset := true }

/-- The first item that the store check finds wrong: bank A, bank B, the PET's slots, the tally groups (R196). -/
def storeCheck (s : State) : Option GateFault :=
  match corruptRule s.bankA (List.finRange 128) with
  | some i => some (.ruleStore .a i)
  | none =>
    match corruptRule s.bankB (List.finRange 128) with
    | some i => some (.ruleStore .b i)
    | none =>
      match (List.finRange 64).find? fun i => !s.petSound[i] with
      | some i => some (.exchangeStore i)
      | none =>
        match (List.finRange 32).find? fun g => !s.tallies[g].sound with
        | some g => some (.tallyStore g)
        | none => none

/-- The end of STARTING (R196): HALTED with the store's fault, or with STRAP for an unusable strap value, or SERVING. -/
def endStarting (s : State) : State :=
  match storeCheck s with
  | some fault => enterHalted fault s
  | none => if sourceByteOk s.sampled.stn then { s with gate := .serving }
    else enterHalted (.strap s.sampled.stn) s

/-- STARTING_END (R196). -/
def execStartingEnd (w : Since) (s : State) : Host.Outcome State Fault Refusal :=
  let s' := lapse w s
  if s'.gate = .starting ∧ s'.inReset = false then .next (endStarting s') else .next s'

end Sys2Proof.Machine
end

