-- ==== Sys2Proof/Machine/Classifier.lean ====
section
/-! DEFINITION. Machine/Classifier.lean: the lookup and the forward decision (chapter 2). -/

namespace Sys2Proof.Machine

/-- A source or destination lies in an inclusive range (R22). -/
def inRange (low high x : Byte) : Bool := decide (low ≤ x) && decide (x ≤ high)

/-- The directions of an entry contain one (R23). -/
def RuleEntry.admits (e : RuleEntry) : Direction → Bool
  | .downward => e.downward
  | .upward => e.upward

/-- A telegram meets an entry's four conditions (R22, R23, R29). -/
def RuleEntry.meets (e : RuleEntry) (d : Direction) (t : Telegram) : Bool :=
  e.admits d && inRange e.sourceLow e.sourceHigh t.source && inRange e.destLow e.destHigh t.dest &&
    e.kinds.getLsbD (kindBit t.kind)

/-- What a lookup comes to: the matching rule, the direction default, or an entry whose check code is wrong (R28, R29). -/
inductive Lookup where
  | rule (i : RuleIndex) (e : RuleEntry)
  | byDefault
  | corrupt (i : RuleIndex)
deriving DecidableEq, Repr

/-- The entries examined in the order of the list; the lookup reads and checks each, in use or not (R28). -/
def lookupIn (bank : RuleBank) (d : Direction) (t : Telegram) : List RuleIndex → Lookup
  | [] => .byDefault
  | i :: rest =>
    if bank[i].sound then
      (if bank[i].item.inUse && bank[i].item.meets d t then .rule i bank[i].item else lookupIn bank d t rest)
    else .corrupt i

/-- The lookup, in ascending index order from 0 (R29). -/
def lookup (bank : RuleBank) (d : Direction) (t : Telegram) : Lookup := lookupIn bank d t (List.finRange 128)

/-- The treatment of a telegram (R31); `rule` is none under a direction default. -/
structure Treatment where
  rule : Option RuleIndex
  action : Action
  group : Option Group
  rate : Option (Fin 16 × OverRate)
  capture : Bool
  track : Option (RuleIndex × TrackTerms)
deriving DecidableEq, Repr

/-- The treatment from a matching rule: tracked when the action is TRACK and the kind POLL or REPLY (R31, R24). -/
def ruleTreatment (i : RuleIndex) (e : RuleEntry) (kind : Kind) : Treatment :=
  { rule := some i, action := e.action, group := e.group, rate := e.profile.map fun n => (n, e.overRate),
    capture := e.capture,
    track := if e.action = .track ∧ (kind = .poll ∨ kind = .reply) then
        some (i, { timeoutClass := e.timeoutClass, allowance := e.allowance, notice := e.notice })
      else none }

/-- A direction default's action as an action. -/
def DefaultAction.action : DefaultAction → Action
  | .pass => .pass
  | .block => .block

/-- The treatment from a direction default: no profile, no capture, never tracked (R30, R31). -/
def defaultTreatment (x : Settings) (d : Direction) : Treatment :=
  { rule := none,
    action := match d with | .downward => x.actionDown.action | .upward => x.actionUp.action,
    group := match d with | .downward => x.groupDown | .upward => x.groupUp,
    rate := none, capture := false, track := none }

/-- How steps 1 to 6 end: the telegram discarded, passed to step 7 with what is pending, or the search at step 6 ended by a
wrong check code. -/
inductive Decision where
  | discard (x : Discard)
  | enqueue (due : Option (Fin 16 × Nat)) (marked : Bool) (act : Option TrackAction)
  | corrupt (slot : Fin 64)
deriving DecidableEq, Repr

/-- Step 6, with what step 5 left pending (R38). -/
def stepSix (p : Port) (t : Telegram) (tr : Treatment) (due : Option (Fin 16 × Nat)) (marked : Bool) (s : State) : Decision :=
  match tr.track with
  | none => .enqueue due marked none
  | some (rule, terms) =>
    match trackAnswer p t rule terms s with
    | .act x => .enqueue due marked (some x)
    | .refuse x => .discard x
    | .corrupt slot => .corrupt slot

/-- Step 5, then step 6 (R37). -/
def stepFive (p : Port) (t : Telegram) (tr : Treatment) (s : State) : Decision :=
  match tr.rate with
  | none => stepSix p t tr none false s
  | some (n, treat) =>
    let cost := costOf s.profiles[n].mode t.payload.length
    if cost ≤ s.profiles[n].credits.toNat then stepSix p t tr (some (n, cost)) false s
    else match treat with
      | .drop => .discard .overRateDropped
      | .mark => stepSix p t tr none true s

/-- Steps 1 to 6 of the forward decision, the first that ends it deciding it (R32 to R38). -/
def forwardSteps (p : Port) (t : Telegram) (tr : Treatment) (s : State) : Decision :=
  if tr.action = .block then .discard .blocked
  else if s.hold p.direction then .discard .held
  else if (s.port p.other).line = .down then .discard .lineLost
  else if Config.forwardCapacity ≤ (s.port p.other).forwardQ.length then .discard .queueFull
  else stepFive p t tr s

/-- The capture request of a decision, its last act (R41). -/
def captureFor (p : Port) (t : Telegram) (tr : Treatment) (outcome : CaptureOutcome) (s : State) : State :=
  match tr.capture, tr.rule with
  | true, some i => requestCapture (captureRecord p i s.generation outcome t) s
  | _, _ => s

/-- A decision that a discarding step ended: a late reply takes its key from the ring (R56), the cause is tallied, the capture
made (R38, R40, R41). -/
def discardTelegram (p : Port) (t : Telegram) (tr : Treatment) (x : Discard) (s : State) : State :=
  (((Course.of (if x = .late then { s with ring := dropKey (replyKey t) s.ring } else s)).tally1 tr.group x.counter).map
    (captureFor p t tr x.outcome)).finish

/-- A telegram at the tail of a port's Forward Queue (R14). -/
def joinForward (p : Port) (x : Forwarded) (s : State) : State :=
  s.onPort p fun q => { q with forwardQ := q.forwardQ ++ [x] }

/-- Step 7 (R39): the charge, the tracker's change and its tally, over-rate marked, the enqueue and the capture, then the output
port's transmitter takes if it is free. DESIGN CHOICE: the tracker's tally is made before over-rate marked, an order that the spec
leaves open and a wrong check code shows (R39, R116; log entry 23). When a tally has found a fault the halt comes before the taking
(R116; log entry 11). -/
def enqueueTelegram (p : Port) (t : Telegram) (tr : Treatment) (due : Option (Fin 16 × Nat)) (marked : Bool)
    (act : Option TrackAction) (s : State) : State :=
  let tracked := carryOut p tr.group act (Course.of (charge due s))
  let tallied := if marked then tracked.tally1 tr.group .overRateMarked else tracked
  let joined := tallied.map (joinForward p.other { telegram := t.forwarded marked, group := tr.group })
  take p.other (joined.map
    (captureFor p t tr (if marked then .enqueuedMarked else .enqueued))).finish

/-- The forward decision under a treatment. -/
def forwardDecision (p : Port) (t : Telegram) (tr : Treatment) (s : State) : State :=
  match forwardSteps p t tr s with
  | .discard x => discardTelegram p t tr x s
  | .enqueue due marked act => enqueueTelegram p t tr due marked act s
  | .corrupt slot => haltOn (.exchangeStore slot) s

/-- The Classifier: the lookup, then the forward decision; a wrong check code found by the lookup discards the telegram and halts
the gate (R28). -/
def classify (p : Port) (t : Telegram) (s : State) : State :=
  match lookup (s.bank s.activeBank) p.direction t with
  | .rule i e => forwardDecision p t (ruleTreatment i e t.kind) s
  | .byDefault => forwardDecision p t (defaultTreatment s.settings p.direction) s
  | .corrupt i => haltOn (.ruleStore s.activeBank i) s

end Sys2Proof.Machine
end

