-- ==== Sys2Proof/Machine/Stores.lean ====
section
/-! DEFINITION. Machine/Stores.lean: the orders on profiles (chapter 4), exchanges (chapter 3), tallies and port counters
(chapter 6) and captures (chapter 7). -/

namespace Sys2Proof.Machine

/-! ## Profiles -/

/-- PROFILE_READ (R83, R173). -/
def runProfileRead (args : List Byte) (s : State) : Served :=
  match profileReadArgs args with
  | .error pos => badParam pos s
  | .ok (first, count) =>
    doneWith count ((spanIndices 16 first count).flatMap fun n => s.profiles[n].record) s

/-- What the search of a PROFILE_WRITE with capacity 0 comes to (R79). -/
inductive Search where
  | named (i : RuleIndex)
  | corrupt (i : RuleIndex)
  | absent
deriving DecidableEq, Repr

/-- The search of the Active bank for an in-use entry that names a profile, in ascending order; each entry is checked (R79). -/
def searchProfile (bank : RuleBank) (n : Fin 16) : List RuleIndex → Search
  | [] => .absent
  | i :: rest =>
    if bank[i].sound then
      (if bank[i].item.inUse && decide (bank[i].item.profile = some n) then .named i else searchProfile bank n rest)
    else .corrupt i

/-- A profile written: full credits, and its period started at `now` unless it is now undefined (R80). -/
def Profile.written (now : Moment) (x : ProfileArgs) : Profile :=
  { capacity := x.capacity, amount := x.amount, period := x.period, mode := x.mode, credits := x.capacity,
    nextExpiry := if x.capacity = 0 then none else some (now + x.period.toNat * Config.unitsPerMs) }

/-- PROFILE_WRITE (R79, R80, R174). -/
def runProfileWrite (args : List Byte) (s : State) : Served :=
  match profileWriteArgs args with
  | .error pos => badParam pos s
  | .ok x =>
    let write := doneWith 0 [] { s with profiles := s.profiles.set x.number (Profile.written s.now x) }
    if x.capacity = 0 then
      match searchProfile (s.bank s.activeBank) x.number (List.finRange 128) with
      | .named i => .answered .inUse (halfOfNat i.val) [] s
      | .corrupt i => .halts (.ruleStore s.activeBank i) s
      | .absent => write
    else write

/-! ## Exchanges -/

/-- EXCHANGE_LIST: the listed entries are read with their check codes (R67, R68, R175). -/
def runExchangeList (args : List Byte) (s : State) : Served :=
  match exchangeListArgs args with
  | .error pos => badParam pos s
  | .ok skip =>
    let page := (s.pet.drop skip).take Config.listPage
    match page.find? fun x => !s.petSound[x.slot] with
    | some x => .halts (.exchangeStore x.slot) s
    | none => doneWith page.length (byteOf s.pet.length :: page.flatMap (PetEntry.record s.now)) s

/-- EXCHANGE_FLUSH (R63, R176). -/
def runExchangeFlush (args : List Byte) (s : State) : Served :=
  match noArgs args with
  | .error pos => badParam pos s
  | .ok _ => (flush none (Course.of s)).serve .done s.pet.length []

/-! ## Tallies and snapshots -/

/-- A slot captured: a copy of a group's counters with the saturated flag, the generation modulo 1024 and a capture sequence
number (R118, R119). -/
def capturedSlot (live : Counters) (generation : Half) (number : Half) : Snapshot :=
  { counters := live, saturated := saturated live, generation := generation.extractLsb' 0 10, sequence := number,
    sound := true }

/-- A SNAPSHOT under way: the state, the groups captured so far and the fault found, if one was (R120, R116). -/
structure Capturing where
  state : State
  captured : List Group
  found : Option GateFault

/-- One named group of a SNAPSHOT: captured if its slot is EMPTY, skipped if HELD (R120). `number` is the capture sequence
number this order gives (R119). A group whose check code is wrong ends the captures (R116). -/
def captureGroup (clear : Bool) (number : Half) (e : Capturing) (g : Group) : Capturing :=
  if e.found ≠ none then e
  else match e.state.snapshots[g] with
    | some _ => e
    | none =>
      if e.state.tallies[g].sound then
        let live := e.state.tallies[g].item
        { state := { e.state with
            snapshots := e.state.snapshots.set g (some (capturedSlot live e.state.generation number)),
            tallies := if clear then e.state.tallies.set g (Checked.fresh Counters.zero) else e.state.tallies },
          captured := e.captured ++ [g], found := none }
      else { e with found := some (.tallyStore g) }

/-- The groups of a set, ascending. -/
def groupsOf (x : GroupSet) : List Group := (List.finRange 32).filter fun g => inSet x g

/-- The captures of a SNAPSHOT over a set, and the capture sequence counter, which counts an order that captured (R119, R120). -/
def takeSnapshot (set : GroupSet) (clear : Bool) (s : State) : Capturing :=
  let e := (groupsOf set).foldl (captureGroup clear (s.captureSeq + 1)) { state := s, captured := [], found := none }
  if e.captured = [] then e else { e with state := { e.state with captureSeq := s.captureSeq + 1 } }

/-- SNAPSHOT (R120, R121, R177). -/
def runSnapshot (args : List Byte) (s : State) : Served :=
  match snapshotArgs args with
  | .error pos => badParam pos s
  | .ok (set, clear) =>
    let e := takeSnapshot set clear s
    match e.found with
    | some fault => .halts fault e.state
    | none =>
      let captured := groupSetOf fun g => decide (g ∈ e.captured)
      .answered .done e.state.captureSeq (countBytes captured ++ countBytes (set &&& ~~~captured)) e.state

/-- The groups whose slots are HELD, as a set (R124, R165). -/
def heldSet (s : State) : GroupSet := groupSetOf fun g => s.snapshots[g].isSome

/-- A SNAPSHOT_READ under way: the slots, the records read so far and the fault found. -/
structure Reading where
  slots : Vector (Option Snapshot) 32
  records : List Byte
  found : Option GateFault

/-- One selected slot read with its check code and set EMPTY; a wrong code ends the reads (R123, R117). -/
def readSlot (e : Reading) (g : Group) : Reading :=
  if e.found ≠ none then e
  else match e.slots[g] with
    | none => e
    | some x =>
      if x.sound then { slots := e.slots.set g none, records := e.records ++ x.record g, found := none }
      else { e with found := some (.tallyStore g) }

/-- The slots a SNAPSHOT_READ selects: the HELD ones of the set, ascending, three at most (R123). -/
def selectedSlots (set : GroupSet) (s : State) : List Group :=
  ((groupsOf set).filter fun g => s.snapshots[g].isSome).take Config.readPage

/-- SNAPSHOT_READ (R123, R124, R177). -/
def runSnapshotRead (args : List Byte) (s : State) : Served :=
  match groupSetArgs args with
  | .error pos => badParam pos s
  | .ok set =>
    let chosen := selectedSlots set s
    let e := chosen.foldl readSlot { slots := s.snapshots, records := [], found := none }
    let after := { s with snapshots := e.slots }
    match e.found with
    | some fault => .halts fault after
    | none => doneWith chosen.length (countBytes (heldSet after) ++ e.records) after

/-- TALLY_CLEAR: written with fresh check codes, without reading the old ones (R128, R116). -/
def runTallyClear (args : List Byte) (s : State) : Served :=
  match groupSetArgs args with
  | .error pos => badParam pos s
  | .ok set =>
    doneWith 0 [] { s with
      tallies := Vector.ofFn fun g : Group => if inSet set g then Checked.fresh Counters.zero else s.tallies[g] }

/-! ## Port counters -/

/-- A port's counters at 0. -/
def clearCounters (p : Port) (s : State) : State := s.onPort p fun q => { q with counters := Vector.replicate 13 0 }

/-- PORT_COUNTERS: Port C before Port F (R178, R179). -/
def runPortCounters (args : List Byte) (s : State) : Served :=
  match portCountersArgs args with
  | .error pos => badParam pos s
  | .ok (atC, atF, clear) =>
    let data := (if atC then countersBytes s.portC.counters else []) ++ (if atF then countersBytes s.portF.counters else [])
    let clearedC := if clear && atC then clearCounters .c s else s
    doneWith 0 data (if clear && atF then clearCounters .f clearedC else clearedC)

/-! ## The Capture Queue -/

/-- CAPTURE_READ (R137, R180). -/
def runCaptureRead (args : List Byte) (s : State) : Served :=
  match noArgs args with
  | .error pos => badParam pos s
  | .ok _ =>
    doneWith (s.captures.drop 1).length
      (halfBytes s.overflow ++ (match s.captures with | x :: _ => x.record | [] => []))
      { s with captures := s.captures.drop 1, overflow := 0 }

/-- CAPTURE_CLEAR (R139, R180). -/
def runCaptureClear (args : List Byte) (s : State) : Served :=
  match noArgs args with
  | .error pos => badParam pos s
  | .ok _ => doneWith s.captures.length [] { s with captures := [], overflow := 0 }

end Sys2Proof.Machine
end

