-- ==== Sys2Proof/Machine/Orders.lean ====
section
/-! DEFINITION. Machine/Orders.lean: the remaining orders (STATUS, CONFIG_READ, CONFIG_WRITE, WORD_READ, WORD_WRITE, RESTART)
and the Order Engine around the execution of every order (chapter 8). -/

namespace Sys2Proof.Machine

/-! ## Gate state and settings -/

/-- The 22 bytes of the status contents (R165, R206). -/
def statusData (s : State) : List Byte :=
  gateCode s.gate :: faultBytes s.fault ++
    [s.station, statusFlags s.holdDown s.holdUp (decide (s.portC.line = .up)) (decide (s.portF.line = .up)) s.slot.state] ++
    outcomeBytes s.outcome ++ [byteOf s.pet.length, byteOf s.ring.length, byteOf s.captures.length] ++
    countBytes (heldSet s) ++ halfBytes s.generation

/-- STATUS (R164). -/
def runStatus (args : List Byte) (s : State) : Served :=
  match noArgs args with
  | .error pos => badParam pos s
  | .ok _ => doneWith 0 (statusData s) s

/-- CONFIG_READ (R166). -/
def runConfigRead (args : List Byte) (s : State) : Served :=
  match noArgs args with
  | .error pos => badParam pos s
  | .ok _ => doneWith 0 s.settings.bytes s

/-- CONFIG_WRITE (R162, R167). -/
def runConfigWrite (args : List Byte) (s : State) : Served :=
  match configWriteArgs args s.settings with
  | .error pos => badParam pos s
  | .ok (settings, n) => doneWith n [] { s with settings := settings }

/-! ## The Shared Word File (chapter 10) -/

/-- The notice word written from a port: word 0 for Port C, word 8 for Port F (R185). -/
def noticeWord : Port → Fin 16
  | .c => 0
  | .f => 8

/-- WORD_READ: a read whose range includes the notice word that the other side writes clears the flag toward the reader (R186). -/
def runWordRead (p : Port) (args : List Byte) (s : State) : Served :=
  match wordReadArgs args with
  | .error pos => badParam pos s
  | .ok (first, count) =>
    let is := spanIndices 16 first count
    doneWith count (is.flatMap fun i => halfBytes s.words[i])
      (if noticeWord p.other ∈ is then s.onPort p fun q => { q with noticePending := false } else s)

/-- A word notice after a write of the notice word of port `p`, by the cases of R188. -/
def wordNotice (p : Port) (s : State) : State :=
  let toward := p.other
  if (s.port toward).noticePending then s
  else match s.settings.noticeStation toward with
    | none => s
    | some station =>
      if (s.port toward).line = .down then s
      else if Config.localCapacity ≤ (s.port toward).localQ.length then bump toward .noticesDropped s
      else (offer toward .noticesDropped
          (ownTelegram s .note station 0 (wordPayload (noticeWord p) s.words[noticeWord p])) s).onPort toward
        fun q => { q with noticePending := true }

/-- Words written at consecutive indices. -/
def writeWords (first : Nat) (xs : List Half) (words : Vector Half 16) : Vector Half 16 :=
  Vector.ofFn fun i : Fin 16 => if first ≤ i.val then (xs[i.val - first]?).getD words[i] else words[i]

/-- The words of a span all lie on a port's side: 0..7 for Port C, 8..15 for Port F (R182). -/
def ownsWords (p : Port) (first count : Nat) : Bool :=
  match p with
  | .c => decide (first + count ≤ 8)
  | .f => decide (8 ≤ first)

/-- WORD_WRITE (R182, R187). -/
def runWordWrite (p : Port) (args : List Byte) (s : State) : Served :=
  match wordWriteArgs args with
  | .error pos => badParam pos s
  | .ok (first, xs) =>
    if ownsWords p first xs.length then
      let written := { s with words := writeWords first xs s.words }
      doneWith xs.length [] (if first = (noticeWord p).val then wordNotice p written else written)
    else .answered .denied 0 [] s

/-- RESTART: the slot goes to RESTARTING, the 20 ms limit running from now (R183, R200). -/
def runRestart (p : Port) (args : List Byte) (s : State) : Served :=
  match noArgs args with
  | .error pos => badParam pos s
  | .ok _ => doneWith 0 [] { s with slot := .restarting { port := p, limit := s.now + Config.restartTime } }

/-! ## Codes and classes (R141, R205) -/

/-- The orders, in code order (R205). -/
inductive OrderCode where
  | status
  | configRead
  | configWrite
  | rulesRead
  | stageWrite
  | stageClear
  | stageClone
  | commit
  | abandon
  | hold
  | release
  | profileRead
  | profileWrite
  | exchangeList
  | exchangeFlush
  | snapshot
  | snapshotRead
  | tallyClear
  | portCounters
  | captureRead
  | captureClear
  | wordRead
  | wordWrite
  | restart
deriving DecidableEq, Repr

/-- An order's code (R205). -/
def OrderCode.byte : OrderCode → Byte
  | .status => 0x01
  | .configRead => 0x02
  | .configWrite => 0x03
  | .rulesRead => 0x04
  | .stageWrite => 0x05
  | .stageClear => 0x06
  | .stageClone => 0x07
  | .commit => 0x08
  | .abandon => 0x09
  | .hold => 0x0A
  | .release => 0x0B
  | .profileRead => 0x0C
  | .profileWrite => 0x0D
  | .exchangeList => 0x0E
  | .exchangeFlush => 0x0F
  | .snapshot => 0x10
  | .snapshotRead => 0x11
  | .tallyClear => 0x12
  | .portCounters => 0x13
  | .captureRead => 0x14
  | .captureClear => 0x15
  | .wordRead => 0x16
  | .wordWrite => 0x17
  | .restart => 0x1F

/-- Every order. -/
def OrderCode.all : List OrderCode :=
  [.status, .configRead, .configWrite, .rulesRead, .stageWrite, .stageClear, .stageClone, .commit, .abandon, .hold, .release,
   .profileRead, .profileWrite, .exchangeList, .exchangeFlush, .snapshot, .snapshotRead, .tallyClear, .portCounters,
   .captureRead, .captureClear, .wordRead, .wordWrite, .restart]

/-- The order of a code, none for a code that belongs to no order (R147, R205). -/
def orderFor (x : Byte) : Option OrderCode := OrderCode.all.find? fun k => decide (k.byte = x)

/-- The order classes (R141). -/
inductive OrderClass where
  | inquiry
  | harvest
  | change
  | word
  | control
deriving DecidableEq, Repr

/-- An order's class; PORT_COUNTERS is HARVEST exactly when its clear option is present and asks for clearing (R141). -/
def OrderCode.cls (k : OrderCode) (args : List Byte) : OrderClass :=
  match k with
  | .status => .inquiry
  | .configRead => .inquiry
  | .rulesRead => .inquiry
  | .profileRead => .inquiry
  | .exchangeList => .inquiry
  | .portCounters => if args[1]? = some 1 then .harvest else .inquiry
  | .snapshot => .harvest
  | .snapshotRead => .harvest
  | .captureRead => .harvest
  | .configWrite => .change
  | .stageWrite => .change
  | .stageClear => .change
  | .stageClone => .change
  | .commit => .change
  | .hold => .change
  | .release => .change
  | .profileWrite => .change
  | .exchangeFlush => .change
  | .tallyClear => .change
  | .captureClear => .change
  | .wordRead => .word
  | .wordWrite => .word
  | .abandon => .control
  | .restart => .control

/-! ## The tests before execution (R144) -/

/-- Port F under INQUIRE may use the classes INQUIRY and WORD alone (R148). -/
def hasRights (p : Port) (access : FieldAccess) (c : OrderClass) : Bool :=
  !(decide (p = .f) && decide (access = .inquire) && !(decide (c = .inquiry) || decide (c = .word)))

/-- What the Command Slot serves (R149). -/
def slotServes (slot : SlotState) (k : OrderCode) (c : OrderClass) : Bool :=
  match slot with
  | .idle => true
  | .validating => decide (c ≠ .change)
  | .restarting => decide (k = .status)

/-- Tests 2 to 5: the refusing status of an order that is not a repeat, none when it is executed (R144). -/
def refusal (p : Port) (k : Option OrderCode) (args : List Byte) (s : State) : Option Status :=
  match k with
  | none => if s.gate = .halted then some .halted else some .unknownOrder
  | some k =>
    if s.gate = .halted ∧ k ≠ .status ∧ k ≠ .restart then some .halted
    else if !hasRights p s.settings.access (k.cls args) then some .denied
    else if !slotServes s.slot.state k (k.cls args) then some .busy
    else none

/-- The execution of an order (R150), each by its own rule. -/
def runOrder (k : OrderCode) (p : Port) (h : OrderHead) (args : List Byte) (s : State) : Served :=
  match k with
  | .status => runStatus args s
  | .configRead => runConfigRead args s
  | .configWrite => runConfigWrite args s
  | .rulesRead => runRulesRead args s
  | .stageWrite => runStageWrite args s
  | .stageClear => runStageClear args s
  | .stageClone => runStageClone args s
  | .commit => runCommit p h args s
  | .abandon => runAbandon args s
  | .hold => runHold args s
  | .release => runRelease args s
  | .profileRead => runProfileRead args s
  | .profileWrite => runProfileWrite args s
  | .exchangeList => runExchangeList args s
  | .exchangeFlush => runExchangeFlush args s
  | .snapshot => runSnapshot args s
  | .snapshotRead => runSnapshotRead args s
  | .tallyClear => runTallyClear args s
  | .portCounters => runPortCounters args s
  | .captureRead => runCaptureRead args s
  | .captureClear => runCaptureClear args s
  | .wordRead => runWordRead p args s
  | .wordWrite => runWordWrite p args s
  | .restart => runRestart p args s

/-! ## The answer (R151 to R153, R158, R200) -/

/-- An answer is stored unless it is BUSY, HALTED or the DONE answer to STATUS (R152, R158). -/
def storable (code : Byte) (status : Status) : Bool :=
  decide (status ≠ .busy) && decide (status ≠ .halted) && !(decide (status = .done) && decide (code = OrderCode.status.byte))

/-- An answer built from the state the order's effects have made, stored if it is storable, and offered to the arrival port's
Local Queue; the DONE answer to RESTART goes to the head instead (R153, R158, R200). -/
def answerOrder (p : Port) (h : OrderHead) (code : Byte) (status : Status) (detail : Half) (data : List Byte) (s : State) : State :=
  let a := buildAnswer s code status detail data
  let stored := if storable code status then storeAnswer p h.source h.tag a s else s
  if code = OrderCode.restart.byte ∧ status = .done then
    stored.onPort p (PortState.placeHead stored.now (byteTime stored.sampled.rts) (answerTelegram stored h.source h.tag a))
  else sendAnswer p h.source h.tag a stored

/-- The end of an order's execution (R150, R156). -/
def concludeOrder (p : Port) (h : OrderHead) (code : Byte) (r : Served) : State :=
  match r with
  | .answered status detail data s => answerOrder p h code status detail data s
  | .halts fault s => haltOn fault s

/-- The stored answer sent again, if the arrival port's record holds the order's source and tag (R145). -/
def repeatOf (p : Port) (h : OrderHead) (s : State) : Option Answer :=
  match (s.port p).lastAnswer with
  | some x => if x.holds h.source h.tag then some x.answer else none
  | none => none

/-- The Order Engine on an order delivered to it: field access NONE at Port F discards it (R143); otherwise it is taken and
passes the tests of R144. An empty payload has order code 0 (R141). -/
def takeOrder (p : Port) (h : OrderHead) (payload : List Byte) (s : State) : State :=
  if p = .f ∧ s.settings.access = .closed then bump .f .ordersRefused s
  else
    let taken := bump p .ordersTaken s
    match repeatOf p h taken with
    | some a => sendAnswer p h.source h.tag a (bump p .repeatsAnswered taken)
    | none =>
      let code := payload.headD 0
      let args := payload.drop 1
      match refusal p (orderFor code) args taken, orderFor code with
      | none, some k => concludeOrder p h code (runOrder k p h args taken)
      | some status, _ => answerOrder p h code status 0 [] taken
      | none, none => taken

end Sys2Proof.Machine
end

