-- ==== Sys2Proof/Machine/Intake.lean ====
section
/-! DEFINITION. Machine/Intake.lean: the receive side of a port: FRAME_BEGIN, FRAME_END and the five intake checks
(sections 1.1 to 1.3). -/

namespace Sys2Proof.Machine

/-- A port's receiver assembles frames: its line is UP, the gate is not STARTING and not held in reset (R2, R10, R12, R202). -/
def receiving (p : Port) (s : State) : Bool :=
  !s.inReset && decide (s.gate ≠ .starting) && decide ((s.port p).line = .up)

/-- The third intake check fails (R7). -/
def illAddressed (station : Byte) (t : Telegram) : Bool :=
  !sourceByteOk t.source || !destByteOk t.dest ||
    (decide (t.dest = 255) && !(decide (t.kind = .note) || decide (t.kind = .sync))) || decide (t.source = station)

/-- Intake checks 3 to 5 on a well-formed telegram, and its delivery (R7 to R10). -/
def intakeTelegram (p : Port) (t : Telegram) (s : State) : State :=
  if illAddressed s.station t then bump p .illAddressed s
  else if t.dest = s.station then
    if t.kind = .order then
      takeOrder p { source := t.source, tag := t.tag } t.payload (bump p .goodReceived s)
    else bump p .illAddressed s
  else if t.reach = 0 then bump p .reachExhausted s
  else if s.gate = .halted then bump p .discardedWhileHalted s
  else classify p t (bump p .goodReceived s)

/-- Intake of a frame handed over by the assembly: checks 1 and 2, then the rest (R5, R6). -/
def intake (p : Port) (a : Assembly) (s : State) : State :=
  if a.checkWordRight then
    match a.telegram with
    | some t => intakeTelegram p t s
    | none => bump p .illFormed s
  else bump p .checkErrors s

/-- The assembly is handed over and empty again (R2). -/
def dropAssembly (p : Port) (s : State) : State := s.onPort p fun q => { q with assembly := none }

/-- The frame that ends at a port whose line was lost at this moment, the loss taken first (R65; log entry 24). -/
def lostNow (p : Port) (s : State) : Option Assembly :=
  match (s.port p).line, (s.port p).assembly, (s.port p).lostFrame with
  | .down, none, some x => if x.moment = s.now then some x.frame else none
  | _, _, _ => none

/-- The lost frame is handed over: no other frame end finds it. -/
def dropLostFrame (p : Port) (s : State) : State := s.onPort p fun q => { q with lostFrame := none }

/-- The rule that takes a telegram has the tracker asked about it (R24, R31). -/
def asksTracker (p : Port) (t : Telegram) (s : State) : Bool :=
  match lookup (s.bank s.activeBank) p.direction t with
  | .rule i e => (ruleTreatment i e t.kind).track.isSome
  | _ => false

/-- R65 has a telegram at a port just lost decided: a REPLY that intake would deliver to the Classifier of a SERVING gate and
that the tracker would be asked about. -/
def decidedAfterLoss (p : Port) (t : Telegram) (s : State) : Bool :=
  decide (s.gate = .serving) && decide (t.kind = .reply) && !illAddressed s.station t && decide (t.dest ≠ s.station) &&
    decide (t.reach ≠ 0) && asksTracker p t s

/-- The frame end at a port just lost: R65 has the REPLY decided, and its decision finds the PET and the ring empty; every other
frame is discarded without intake (R13). DESIGN CHOICE: how far R65 reaches against R13 (log entry 24). -/
def frameEndAfterLoss (p : Port) (a : Assembly) (s : State) : State :=
  match a.checkWordRight, a.telegram with
  | true, some t => if decidedAfterLoss p t s then classify p t (bump p .goodReceived (dropLostFrame p s)) else s
  | _, _ => s

/-- The frame-end event at a port; without a frame being assembled there is none (R2; log entry 7), but for the frame that a line
loss of the same moment took (R65; log entry 24). -/
def frameEnd (p : Port) (rest : List Byte) (s : State) : State :=
  match receiving p s, (s.port p).assembly with
  | true, some a => intake p (a.pushAll rest) (dropAssembly p s)
  | _, _ =>
    match lostNow p s with
    | some a => frameEndAfterLoss p (a.pushAll rest) s
    | none => s

/-- The telegram of an order row: an ORDER to the gate with the given source, tag and payload. Its reach and mark are not
examined (R8, R3). -/
def orderTelegram (h : OrderHead) (payload : List Byte) (s : State) : Telegram :=
  { dest := s.station, source := h.source, kind := .order, mark := false, reach := 0, tag := h.tag, payload := payload }

/-- The frame-end event at which a port receives an order to the gate (R8, R142; log entry 8). -/
def orderEnd (p : Port) (h : OrderHead) (payload : List Byte) (s : State) : State :=
  if receiving p s then intakeTelegram p (orderTelegram h payload s) (dropAssembly p s) else s

/-- The frame-end event that delivers the order with the given code. -/
def orderRow (k : OrderCode) (w : Since) (p : Port) (h : OrderHead) (args : List Byte) (s : State) :
    Host.Outcome State Fault Refusal :=
  .next (orderEnd p h (k.byte :: args) (lapse w s))

/-- FRAME_BEGIN (R2, R10, R12). -/
def execFrameBegin (w : Since) (p : Port) (first : Byte) (s : State) : Host.Outcome State Fault Refusal :=
  let s' := lapse w s
  if receiving p s' ∧ (s'.port p).assembly = none then
    .next (s'.onPort p fun q => { q with assembly := some (Assembly.empty.push first) })
  else .next s'

/-- FRAME_END (R2, R65). -/
def execFrameEnd (w : Since) (p : Port) (rest : List Byte) (s : State) : Host.Outcome State Fault Refusal :=
  .next (frameEnd p rest (lapse w s))

/-- UNKNOWN_ORDER (R147). -/
def execUnknownOrder (w : Since) (p : Port) (h : OrderHead) (payload : List Byte) (s : State) :
    Host.Outcome State Fault Refusal :=
  .next (orderEnd p h payload (lapse w s))

/-- STATUS (R164): executed by `runStatus`. -/
def execStatus (w : Since) (p : Port) (h : OrderHead) (args : List Byte) (s : State) :
    Host.Outcome State Fault Refusal :=
  orderRow .status w p h args s

/-- CONFIG_READ (R166): executed by `runConfigRead`. -/
def execConfigRead (w : Since) (p : Port) (h : OrderHead) (args : List Byte) (s : State) :
    Host.Outcome State Fault Refusal :=
  orderRow .configRead w p h args s

/-- CONFIG_WRITE (R167): executed by `runConfigWrite`. -/
def execConfigWrite (w : Since) (p : Port) (h : OrderHead) (args : List Byte) (s : State) :
    Host.Outcome State Fault Refusal :=
  orderRow .configWrite w p h args s

/-- RULES_READ (R169): executed by `runRulesRead`. -/
def execRulesRead (w : Since) (p : Port) (h : OrderHead) (args : List Byte) (s : State) :
    Host.Outcome State Fault Refusal :=
  orderRow .rulesRead w p h args s

/-- STAGE_WRITE (R86): executed by `runStageWrite`. -/
def execStageWrite (w : Since) (p : Port) (h : OrderHead) (args : List Byte) (s : State) :
    Host.Outcome State Fault Refusal :=
  orderRow .stageWrite w p h args s

/-- STAGE_CLEAR (R88): executed by `runStageClear`. -/
def execStageClear (w : Since) (p : Port) (h : OrderHead) (args : List Byte) (s : State) :
    Host.Outcome State Fault Refusal :=
  orderRow .stageClear w p h args s

/-- STAGE_CLONE (R89): executed by `runStageClone`. -/
def execStageClone (w : Since) (p : Port) (h : OrderHead) (args : List Byte) (s : State) :
    Host.Outcome State Fault Refusal :=
  orderRow .stageClone w p h args s

/-- COMMIT (R90): executed by `runCommit`. -/
def execCommit (w : Since) (p : Port) (h : OrderHead) (args : List Byte) (s : State) :
    Host.Outcome State Fault Refusal :=
  orderRow .commit w p h args s

/-- ABANDON (R102): executed by `runAbandon`. -/
def execAbandon (w : Since) (p : Port) (h : OrderHead) (args : List Byte) (s : State) :
    Host.Outcome State Fault Refusal :=
  orderRow .abandon w p h args s

/-- HOLD (R108): executed by `runHold`. -/
def execHold (w : Since) (p : Port) (h : OrderHead) (args : List Byte) (s : State) :
    Host.Outcome State Fault Refusal :=
  orderRow .hold w p h args s

/-- RELEASE (R109): executed by `runRelease`. -/
def execRelease (w : Since) (p : Port) (h : OrderHead) (args : List Byte) (s : State) :
    Host.Outcome State Fault Refusal :=
  orderRow .release w p h args s

/-- PROFILE_READ (R173): executed by `runProfileRead`. -/
def execProfileRead (w : Since) (p : Port) (h : OrderHead) (args : List Byte) (s : State) :
    Host.Outcome State Fault Refusal :=
  orderRow .profileRead w p h args s

/-- PROFILE_WRITE (R80): executed by `runProfileWrite`. -/
def execProfileWrite (w : Since) (p : Port) (h : OrderHead) (args : List Byte) (s : State) :
    Host.Outcome State Fault Refusal :=
  orderRow .profileWrite w p h args s

/-- EXCHANGE_LIST (R175): executed by `runExchangeList`. -/
def execExchangeList (w : Since) (p : Port) (h : OrderHead) (args : List Byte) (s : State) :
    Host.Outcome State Fault Refusal :=
  orderRow .exchangeList w p h args s

/-- EXCHANGE_FLUSH (R176): executed by `runExchangeFlush`. -/
def execExchangeFlush (w : Since) (p : Port) (h : OrderHead) (args : List Byte) (s : State) :
    Host.Outcome State Fault Refusal :=
  orderRow .exchangeFlush w p h args s

/-- SNAPSHOT (R120): executed by `runSnapshot`. -/
def execSnapshot (w : Since) (p : Port) (h : OrderHead) (args : List Byte) (s : State) :
    Host.Outcome State Fault Refusal :=
  orderRow .snapshot w p h args s

/-- SNAPSHOT_READ (R123): executed by `runSnapshotRead`. -/
def execSnapshotRead (w : Since) (p : Port) (h : OrderHead) (args : List Byte) (s : State) :
    Host.Outcome State Fault Refusal :=
  orderRow .snapshotRead w p h args s

/-- TALLY_CLEAR (R128): executed by `runTallyClear`. -/
def execTallyClear (w : Since) (p : Port) (h : OrderHead) (args : List Byte) (s : State) :
    Host.Outcome State Fault Refusal :=
  orderRow .tallyClear w p h args s

/-- PORT_COUNTERS (R178): executed by `runPortCounters`. -/
def execPortCounters (w : Since) (p : Port) (h : OrderHead) (args : List Byte) (s : State) :
    Host.Outcome State Fault Refusal :=
  orderRow .portCounters w p h args s

/-- CAPTURE_READ (R137): executed by `runCaptureRead`. -/
def execCaptureRead (w : Since) (p : Port) (h : OrderHead) (args : List Byte) (s : State) :
    Host.Outcome State Fault Refusal :=
  orderRow .captureRead w p h args s

/-- CAPTURE_CLEAR (R139): executed by `runCaptureClear`. -/
def execCaptureClear (w : Since) (p : Port) (h : OrderHead) (args : List Byte) (s : State) :
    Host.Outcome State Fault Refusal :=
  orderRow .captureClear w p h args s

/-- WORD_READ (R186): executed by `runWordRead`. -/
def execWordRead (w : Since) (p : Port) (h : OrderHead) (args : List Byte) (s : State) :
    Host.Outcome State Fault Refusal :=
  orderRow .wordRead w p h args s

/-- WORD_WRITE (R187): executed by `runWordWrite`. -/
def execWordWrite (w : Since) (p : Port) (h : OrderHead) (args : List Byte) (s : State) :
    Host.Outcome State Fault Refusal :=
  orderRow .wordWrite w p h args s

/-- RESTART (R200): executed by `runRestart`. -/
def execRestart (w : Since) (p : Port) (h : OrderHead) (args : List Byte) (s : State) :
    Host.Outcome State Fault Refusal :=
  orderRow .restart w p h args s

end Sys2Proof.Machine
end

