-- ==== Sys2Proof/Machine/Dispatch.lean ====
section
/-! DEFINITION. Machine/Dispatch.lean: one arm per command, each one direct call of the command's meaning. -/

namespace Sys2Proof.Machine

/-- A command's effect on everything but the queue of commands. -/
def exec (i : Instr) (s : State) : Host.Outcome State Fault Refusal :=
  match i with
  | .frameEnd w p rest => Sys2Proof.Machine.execFrameEnd w p rest s
  | .transmitCompletion w p => Sys2Proof.Machine.execTransmitCompletion w p s
  | .lineLoss w p => Sys2Proof.Machine.execLineLoss w p s
  | .lineReturn w p => Sys2Proof.Machine.execLineReturn w p s
  | .deadlineExpiry w k => Sys2Proof.Machine.execDeadlineExpiry w k s
  | .periodExpiry w n => Sys2Proof.Machine.execPeriodExpiry w n s
  | .validationComplete w => Sys2Proof.Machine.execValidationComplete w s
  | .restartTimeLimit w => Sys2Proof.Machine.execRestartTimeLimit w s
  | .powerOn w => Sys2Proof.Machine.execPowerOn w s
  | .resetAsserted w => Sys2Proof.Machine.execResetAsserted w s
  | .startingEnd w => Sys2Proof.Machine.execStartingEnd w s
  | .unknownOrder w p h payload => Sys2Proof.Machine.execUnknownOrder w p h payload s
  | .status w p h args => Sys2Proof.Machine.execStatus w p h args s
  | .configRead w p h args => Sys2Proof.Machine.execConfigRead w p h args s
  | .configWrite w p h args => Sys2Proof.Machine.execConfigWrite w p h args s
  | .rulesRead w p h args => Sys2Proof.Machine.execRulesRead w p h args s
  | .stageWrite w p h args => Sys2Proof.Machine.execStageWrite w p h args s
  | .stageClear w p h args => Sys2Proof.Machine.execStageClear w p h args s
  | .stageClone w p h args => Sys2Proof.Machine.execStageClone w p h args s
  | .commit w p h args => Sys2Proof.Machine.execCommit w p h args s
  | .abandon w p h args => Sys2Proof.Machine.execAbandon w p h args s
  | .hold w p h args => Sys2Proof.Machine.execHold w p h args s
  | .release w p h args => Sys2Proof.Machine.execRelease w p h args s
  | .profileRead w p h args => Sys2Proof.Machine.execProfileRead w p h args s
  | .profileWrite w p h args => Sys2Proof.Machine.execProfileWrite w p h args s
  | .exchangeList w p h args => Sys2Proof.Machine.execExchangeList w p h args s
  | .exchangeFlush w p h args => Sys2Proof.Machine.execExchangeFlush w p h args s
  | .snapshot w p h args => Sys2Proof.Machine.execSnapshot w p h args s
  | .snapshotRead w p h args => Sys2Proof.Machine.execSnapshotRead w p h args s
  | .tallyClear w p h args => Sys2Proof.Machine.execTallyClear w p h args s
  | .portCounters w p h args => Sys2Proof.Machine.execPortCounters w p h args s
  | .captureRead w p h args => Sys2Proof.Machine.execCaptureRead w p h args s
  | .captureClear w p h args => Sys2Proof.Machine.execCaptureClear w p h args s
  | .wordRead w p h args => Sys2Proof.Machine.execWordRead w p h args s
  | .wordWrite w p h args => Sys2Proof.Machine.execWordWrite w p h args s
  | .restart w p h args => Sys2Proof.Machine.execRestart w p h args s
  | .signalChange w p present => Sys2Proof.Machine.execSignalChange w p present s
  | .frameBegin w p first => Sys2Proof.Machine.execFrameBegin w p first s

end Sys2Proof.Machine
end

