-- ==== Sys2Proof/WellFormed.lean ====
section
/-! DEFINITION. WellFormed.lean: which commands stand for an event that can come in from a line: station numbers and payload
lengths in the ranges of R3, an unknown order's code outside the table of R205. A number's own type holds every other range. -/

namespace Sys2Proof

/-- A station number, 1..239 (R3). -/
def stationOk (b : Byte) : Bool := decide (1 ≤ b.toNat) && decide (b.toNat ≤ 239)

/-- The first bytes that R205 assigns to an order. -/
def orderCodeAssigned (b : Byte) : Bool :=
  (decide (1 ≤ b.toNat) && decide (b.toNat ≤ 0x17)) || decide (b.toNat = 0x1F)

/-- An order row's operands: a source that intake does not refuse (R7) and parameters that fit a payload beside the code (R3). -/
def orderOk (h : OrderHead) (args : List Byte) : Bool := stationOk h.source && decide (args.length ≤ 239)

/-- The check on a command's operands. -/
def Instr.wellFormed : Instr → Bool
  | .frameEnd _ _ _ => true
  | .transmitCompletion _ _ => true
  | .lineLoss _ _ => true
  | .lineReturn _ _ => true
  | .deadlineExpiry _ k => stationOk k.requester && stationOk k.responder
  | .periodExpiry _ _ => true
  | .validationComplete _ => true
  | .restartTimeLimit _ => true
  | .powerOn _ => true
  | .resetAsserted _ => true
  | .startingEnd _ => true
  | .unknownOrder _ _ h payload =>
    stationOk h.source && decide (payload.length ≤ 240) && !(payload.head?.any orderCodeAssigned)
  | .status _ _ h args => orderOk h args
  | .configRead _ _ h args => orderOk h args
  | .configWrite _ _ h args => orderOk h args
  | .rulesRead _ _ h args => orderOk h args
  | .stageWrite _ _ h args => orderOk h args
  | .stageClear _ _ h args => orderOk h args
  | .stageClone _ _ h args => orderOk h args
  | .commit _ _ h args => orderOk h args
  | .abandon _ _ h args => orderOk h args
  | .hold _ _ h args => orderOk h args
  | .release _ _ h args => orderOk h args
  | .profileRead _ _ h args => orderOk h args
  | .profileWrite _ _ h args => orderOk h args
  | .exchangeList _ _ h args => orderOk h args
  | .exchangeFlush _ _ h args => orderOk h args
  | .snapshot _ _ h args => orderOk h args
  | .snapshotRead _ _ h args => orderOk h args
  | .tallyClear _ _ h args => orderOk h args
  | .portCounters _ _ h args => orderOk h args
  | .captureRead _ _ h args => orderOk h args
  | .captureClear _ _ h args => orderOk h args
  | .wordRead _ _ h args => orderOk h args
  | .wordWrite _ _ h args => orderOk h args
  | .restart _ _ h args => orderOk h args
  | .signalChange _ _ _ => true
  | .frameBegin _ _ _ => true

end Sys2Proof
end

