-- ==== Sys2Proof/Safety.lean ====
section
/-! DEFINITION. Safety.lean: what every state of a gate that runs from reset is like: the invariants that claims are stated about.
Each is a conjunction of sentences of the spec about every moment, so that a state that meets it is one the spec admits. -/

namespace Sys2Proof.Safety

open Sys2Proof.Machine

/-- A port's transmit side: at most 12 forwarded and 4 gate-originated telegrams wait (R14, R15), and none waits while the
transmitter is free, for it would have been taken (R17). -/
def queuesOk (q : PortState) : Prop :=
  q.forwardQ.length ≤ Config.forwardCapacity ∧ q.localQ.length ≤ Config.localCapacity ∧
    (q.sending = none → q.forwardQ = [] ∧ q.localQ = [])

/-- A port whose line is DOWN receives and sends nothing: its queues and assembly are empty and its transmitter free (R12, R13). -/
def downOk (q : PortState) : Prop :=
  q.line = .down → q.forwardQ = [] ∧ q.localQ = [] ∧ q.sending = none ∧ q.assembly = none

/-- Both ports' queues and lines (R12 to R17). -/
def LinesOk (s : State) : Prop := queuesOk s.portC ∧ queuesOk s.portF ∧ downOk s.portC ∧ downOk s.portF

/-- While a direction's forward hold is set, the Forward Queue of that direction is empty (R107). -/
def HoldsOk (s : State) : Prop :=
  (s.holdDown = true → s.portF.forwardQ = []) ∧ (s.holdUp = true → s.portC.forwardQ = [])

/-- The Exchange Tracker: no two entries with one key or one storage slot, at most 64 entries, retries used within the allowance
(R43, R44, R45, R70); a ring of at most 16 keys, none twice, none of them open (R49). -/
def TrackerOk (s : State) : Prop :=
  (s.pet.map PetEntry.key).Nodup ∧ (s.pet.map PetEntry.slot).Nodup ∧ s.pet.length ≤ Config.petCapacity ∧
    (∀ x ∈ s.pet, x.used ≤ x.allowance) ∧ s.ring.length ≤ Config.ringCapacity ∧ s.ring.Nodup ∧
    ∀ x ∈ s.pet, x.key ∉ s.ring

/-- The Rate Unit: credits never above the capacity (R74), and a period runs exactly for a defined profile (R73). -/
def RatesOk (s : State) : Prop :=
  ∀ n : Fin 16, s.profiles[n].credits ≤ s.profiles[n].capacity ∧
    (s.profiles[n].capacity = 0 ↔ s.profiles[n].nextExpiry = none)

/-- The Rule Store: every in-use entry of the Active bank passes all seven checks, so every profile it names is defined, and a
commit in flight holds the result that the Staging bank and the profiles give (R91, R92). -/
def RulesOk (s : State) : Prop :=
  bankFailure s.profiles (s.bank s.activeBank) = none ∧
    ∀ c, s.slot = .validating c →
      c.failure = bankFailure s.profiles (s.bank s.stagingBank) ∧ c.inUse = inUseCount (s.bank s.stagingBank)

/-- A gate that is not SERVING forwards and tracks nothing: both holds are set, both Forward Queues, the PET and the Lapsed Ring
are empty, and no commit is in flight (R195, R198); a gate held in reset is STARTING (log entry 14). -/
def StoppedOk (s : State) : Prop :=
  (s.gate ≠ .serving → s.holdDown = true ∧ s.holdUp = true ∧ s.portC.forwardQ = [] ∧ s.portF.forwardQ = [] ∧
    s.pet = [] ∧ s.ring = [] ∧ s.slot.state ≠ .validating) ∧
    (s.inReset = true → s.gate = .starting)

/-- The Capture Queue never holds more than 16 records, and a record keeps at most 200 payload bytes (R131, R133). -/
def CapturesOk (s : State) : Prop :=
  s.captures.length ≤ Config.captureCapacity ∧ ∀ x ∈ s.captures, x.kept.length ≤ Config.keptPayload

/-- The settings that hold a value within a range narrower than their type (R161). -/
def SettingsOk (s : State) : Prop :=
  1 ≤ s.settings.requesterLimit.toNat ∧ s.settings.requesterLimit.toNat ≤ 16 ∧
    (∀ k : Fin 4, s.settings.classMs[k] ≠ 0) ∧ s.settings.answerReach ≠ 0 ∧
    (∀ x, s.settings.noticeC = some x → stationOk x = true) ∧ (∀ x, s.settings.noticeF = some x → stationOk x = true)

/-! ## The terms of claims about orders -/

/-- An order from `h` at port `p` is delivered to the Order Engine: the port receives, and the source passes the addressing
check (R7, R8, R10, R12). -/
def Heard (p : Port) (h : OrderHead) (s : State) : Prop :=
  receiving p s = true ∧ stationOk h.source = true ∧ h.source ≠ s.station

/-- A delivered order is executed: it is no repeat, the gate state, the rights and the Command Slot serve it (R143 to R149). -/
def Admitted (k : OrderCode) (args : List Byte) (p : Port) (h : OrderHead) (s : State) : Prop :=
  (s.gate = .serving ∨ k = .status ∨ k = .restart) ∧
    (p = .c ∨ s.settings.access = .full ∨
      (s.settings.access = .inquire ∧ (k.cls args = .inquiry ∨ k.cls args = .word))) ∧
    (s.slot = .idle ∨ (s.slot.state = .validating ∧ k.cls args ≠ .change) ∨ (s.slot.state = .restarting ∧ k = .status)) ∧
    ∀ x, (s.port p).lastAnswer = some x → ¬(x.requester = h.source ∧ x.tag = h.tag)

/-- The state on which an order that arrived at `p` executes: the assembly handed over, good received and orders taken counted
(R2, R8, R143). -/
def arrived (w : Since) (p : Port) (s : State) : State :=
  (lapse w s).onPort p fun q => { (q.count .goodReceived 1).count .ordersTaken 1 with assembly := none }

/-- A free transmitter takes the head of the Local Queue, or else of the Forward Queue, on a line that is UP; a busy one goes on
with what it sends (R17). -/
def Takes (now bt : Nat) (q q' : PortState) : Prop :=
  (q.line = .down ∨ q.sending ≠ none → q' = q) ∧
    (q.line = .up → q.sending = none →
      (∀ x xs, q.localQ = x :: xs →
        q' = { q with localQ := xs, sending := some { item := .own x, frame := x.telegram.frame,
                                                      ends := now + (x.telegram.frame.length + 4) * bt } }) ∧
      (q.localQ = [] → ∀ x xs, q.forwardQ = x :: xs →
        q' = { q with forwardQ := xs, sending := some { item := .forwarded x, frame := x.telegram.frame,
                                                        ends := now + (x.telegram.frame.length + 4) * bt } }) ∧
      (q.localQ = [] → q.forwardQ = [] → q' = q))

/-- What an ordinary placement does to a port (R15, R17): with no room the refusal is counted and nothing else changes; with room the
telegram joins the tail, and a free transmitter takes the head at once. -/
def Placed (now bt : Nat) (refused : PortCounter) (t : Telegram) (q q' : PortState) : Prop :=
  (q.hasRoom = false → q' = q.count refused 1) ∧
    (q.hasRoom = true → Takes now bt { q with localQ := q.localQ ++ [{ telegram := t, restartAnswer := false }] } q')

/-- The answer to an order, with the gate state, slot state and generation of `u` (R151). -/
def answerOf (code : Byte) (status : Status) (detail : Half) (data : List Byte) (u : State) : Answer :=
  { code := code, status := status, gate := u.gate, slot := u.slot.state, generation := u.generation, detail := detail,
    data := data }

/-- The telegram of an answer placed in state `u` (R16, R151). -/
def answerTo (h : OrderHead) (a : Answer) (u : State) : Telegram :=
  { dest := h.source, source := u.station, kind := .answer, mark := false, reach := u.settings.answerReach, tag := h.tag,
    payload := a.payload }

/-- `t` is the state `u` of an order's effects once its answer is dealt with: nothing outside the arrival port changes, the answer
is stored in the port's Last Answer Record when `stored`, and offered to its Local Queue (R151, R153, R158). -/
def Replied (p : Port) (h : OrderHead) (code : Byte) (status : Status) (detail : Half) (data : List Byte) (stored : Bool)
    (u t : State) : Prop :=
  let a := answerOf code status detail data u
  t = u.setPort p (t.port p) ∧
    Placed u.now (byteTime u.sampled.rts) .answersDropped (answerTo h a u)
      { u.port p with
        lastAnswer := if stored then some { requester := h.source, tag := h.tag, answer := a } else (u.port p).lastAnswer }
      (t.port p)

/-- The row of an order. -/
def orderInstr (k : OrderCode) (w : Since) (p : Port) (h : OrderHead) (args : List Byte) : Instr :=
  match k with
  | .status => .status w p h args
  | .configRead => .configRead w p h args
  | .configWrite => .configWrite w p h args
  | .rulesRead => .rulesRead w p h args
  | .stageWrite => .stageWrite w p h args
  | .stageClear => .stageClear w p h args
  | .stageClone => .stageClone w p h args
  | .commit => .commit w p h args
  | .abandon => .abandon w p h args
  | .hold => .hold w p h args
  | .release => .release w p h args
  | .profileRead => .profileRead w p h args
  | .profileWrite => .profileWrite w p h args
  | .exchangeList => .exchangeList w p h args
  | .exchangeFlush => .exchangeFlush w p h args
  | .snapshot => .snapshot w p h args
  | .snapshotRead => .snapshotRead w p h args
  | .tallyClear => .tallyClear w p h args
  | .portCounters => .portCounters w p h args
  | .captureRead => .captureRead w p h args
  | .captureClear => .captureClear w p h args
  | .wordRead => .wordRead w p h args
  | .wordWrite => .wordWrite w p h args
  | .restart => .restart w p h args

/-- A command answers an order: it has a next state, and there the answer is dealt with over the effects `u`. -/
def Answers (c : Instr) (s : State) (p : Port) (h : OrderHead) (code : Byte) (status : Status) (detail : Half)
    (data : List Byte) (stored : Bool) (u : State) : Prop :=
  ∃ t, exec c s = .next t ∧ Replied p h code status detail data stored u t

/-- A stored answer is offered again, with the answer reach in force now (R145). -/
def Resent (p : Port) (h : OrderHead) (a : Answer) (u t : State) : Prop :=
  t = u.setPort p (t.port p) ∧
    Placed u.now (byteTime u.sampled.rts) .answersDropped (answerTo h a u) (u.port p) (t.port p)

/-- The frame that ends at `p` carries `t`: its check word is right and it is well formed (R5, R6). -/
def Framed (p : Port) (rest : List Byte) (s : State) (t : Telegram) : Prop :=
  ∃ a, (s.port p).assembly = some a ∧ (a.pushAll rest).checkWordRight = true ∧ (a.pushAll rest).telegram = some t

/-- A telegram passes the third intake check (R7). -/
def WellAddressed (station : Byte) (t : Telegram) : Prop :=
  1 ≤ t.source.toNat ∧ t.source.toNat ≤ 239 ∧ t.source ≠ station ∧
    ((1 ≤ t.dest.toNat ∧ t.dest.toNat ≤ 239) ∨ (t.dest = 255 ∧ (t.kind = .note ∨ t.kind = .sync)))

/-- A command delivers an order of code `k` to the Order Engine: its row, or a frame end whose telegram is that order (R8, R142). -/
def Delivers (k : OrderCode) (c : Instr) (s : State) : Prop :=
  (∃ w p h args, c = orderInstr k w p h args) ∨
    ∃ w p rest u args, c = .frameEnd w p rest ∧ Framed p rest s u ∧ WellAddressed s.station u ∧ u.dest = s.station ∧
      u.kind = .order ∧ u.payload = k.byte :: args

/-- An order at port `p` is no repeat (R145). -/
def NotRepeat (p : Port) (h : OrderHead) (s : State) : Prop :=
  ∀ x, (s.port p).lastAnswer = some x → ¬(x.requester = h.source ∧ x.tag = h.tag)

/-- A commit ends: slot, Outcome Record, completion answer with gate state `shown`, and the commit port's Last Answer Record
(R99 to R101). -/
def Ended (c : CommitContext) (result : CommitResult) (detail : Half) (shown : GateState) (u t : State) : Prop :=
  let v := { u with
    slot := .idle,
    outcome := some { requester := c.requester, port := c.port, tag := c.tag, result := result, detail := detail } }
  let a : Answer :=
    { code := 0x08, status := result.status, gate := shown, slot := .idle, generation := u.generation, detail := detail,
      data := [] }
  let q := u.port c.port
  t = v.setPort c.port (t.port c.port) ∧
    Placed u.now (byteTime u.sampled.rts) .answersDropped (answerTo { source := c.requester, tag := c.tag } a u)
      { q with
        lastAnswer := match q.lastAnswer with
          | some x =>
            if x.requester = c.requester ∧ x.tag = c.tag then
              (if result = .faulted then none else some { requester := c.requester, tag := c.tag, answer := a })
            else some x
          | none => none }
      (t.port c.port)

/-! ## The terms of claims about halts, tallies and captures -/

/-- What the halt changes when no commit is in flight (R198). -/
def haltedAt (fault : GateFault) (u : State) : State :=
  { u with gate := .halted, fault := some fault, holdDown := true, holdUp := true, pet := [], ring := [],
           portC := { u.portC with forwardQ := [] }, portF := { u.portF with forwardQ := [] } }

/-- The gate has entered HALTED from `u`: a commit in flight ended FAULTED, every other slot state as it was (R105, R198). -/
def Halts (fault : GateFault) (u t : State) : Prop :=
  match u.slot with
  | .validating c => Ended c .faulted 0 .halted (haltedAt fault u) t
  | _ => t = haltedAt fault u

/-- A read of an event that has reached `u` finds a wrong check code: a SERVING gate halts, any other stays as it stands
(R116, R197). -/
def HaltsIfServing (fault : GateFault) (u t : State) : Prop := if u.gate = .serving then Halts fault u t else t = u

/-- A group's counters with one of them raised (R112). -/
def raised (k : Counter) (n : Nat) (v : Counters) : Counters := v.set k.index (satAdd v[k.index] n)

/-- One counter of a group raised; nothing for an absent group (R112, R114). -/
def tallied (group : Option Group) (k : Counter) (n : Nat) (u : State) : State :=
  match group with
  | none => u
  | some g => { u with tallies := u.tallies.set g (Checked.fresh (raised k n u.tallies[g].item)) }

/-- The check code of a group, if there is one, is right (R116). -/
def SoundGroup (group : Option Group) (u : State) : Prop := ∀ g, group = some g → u.tallies[g].sound = true

/-- How many of a list carry a group. -/
def carrying {α : Type} (groupOf : α → Option Group) (g : Group) (xs : List α) : Nat :=
  xs.countP fun x => decide (groupOf x = some g)

/-- A group with one counter raised `n` times, untouched when `n` is 0. -/
def raisedBy (k : Counter) (n : Nat) (x : Checked Counters) : Checked Counters :=
  if n = 0 then x else Checked.fresh (raised k n x.item)

/-- Of the tallies of removed telegrams, taken in order, those of `before` find their groups sound and the next finds the check code
of group `g` wrong (R116). -/
def QueueFault (removed before : List Forwarded) (g : Group) (u : State) : Prop :=
  ∃ x after, removed = before ++ x :: after ∧ (∀ y ∈ before, SoundGroup y.group u) ∧ x.group = some g ∧
    u.tallies[g].sound = false

/-- Of a flush that tallies, in listing order, the entries `before` and their groups are sound and the next entry's read, or its
tally's, finds `fault` (R68, R116). -/
def FlushFault (pet before : List PetEntry) (fault : GateFault) (u : State) : Prop :=
  ∃ x after, pet = before ++ x :: after ∧ (∀ y ∈ before, u.petSound[y.slot] = true ∧ SoundGroup y.group u) ∧
    ((u.petSound[x.slot] = false ∧ fault = .exchangeStore x.slot) ∨
      (u.petSound[x.slot] = true ∧ ∃ g, x.group = some g ∧ u.tallies[g].sound = false ∧ fault = .tallyStore g))

/-! ## The terms of claims about forward decisions -/

/-- The state in which a delivered telegram's decision is taken: the assembly handed over, or the frame that the line loss took,
and good received counted (R2, R9, R65). -/
def received (w : Since) (p : Port) (s : State) : State :=
  (lapse w s).onPort p fun q =>
    { q.count .goodReceived 1 with
      assembly := none, lostFrame := match q.line with | .up => q.lostFrame | .down => none }

/-- A telegram meets the four conditions of an entry (R22, R23). -/
def Meets (e : RuleEntry) (d : Direction) (t : Telegram) : Prop :=
  (match d with | .downward => e.downward | .upward => e.upward) = true ∧
    e.sourceLow.toNat ≤ t.source.toNat ∧ t.source.toNat ≤ e.sourceHigh.toNat ∧
    e.destLow.toNat ≤ t.dest.toNat ∧ t.dest.toNat ≤ e.destHigh.toNat ∧ e.kinds.getLsbD (kindBit t.kind) = true

/-- The entry at `i` takes a telegram. -/
def TakesAt (bank : RuleBank) (d : Direction) (t : Telegram) (i : RuleIndex) : Prop :=
  bank[i].item.inUse = true ∧ Meets bank[i].item d t

/-- The entries below `i` are read, found sound and do not take the telegram (R28, R29). -/
def PassedBelow (bank : RuleBank) (d : Direction) (t : Telegram) (i : Nat) : Prop :=
  ∀ j : RuleIndex, j.val < i → bank[j].sound = true ∧ ¬TakesAt bank d t j

/-- A direction default as the entry it is treated as (R30). -/
def defaultEntry (x : Settings) (d : Direction) : RuleEntry :=
  { RuleEntry.reset with
    inUse := true,
    action := match d with | .downward => x.actionDown.action | .upward => x.actionUp.action,
    group := match d with | .downward => x.groupDown | .upward => x.groupUp }

/-- The treatment of `t` arriving at `p` is that of `e`: the matching rule's entry at `i`, or the direction default (R29 to R31). -/
def Treated (u : State) (p : Port) (t : Telegram) (i : RuleIndex) (e : RuleEntry) : Prop :=
  let bank := u.bank u.activeBank
  (PassedBelow bank p.direction t i.val ∧ bank[i].sound = true ∧ TakesAt bank p.direction t i ∧ bank[i].item = e) ∨
    (PassedBelow bank p.direction t 128 ∧ e = defaultEntry u.settings p.direction)

/-- The frame that ends at `p`, whose line was lost at this moment with the loss taken first, carries `t`, a REPLY that a TRACK
rule takes: R65 has it decided. That R65 reaches this and no other frame is the model's choice (log entry 24). -/
def FramedAtLoss (w : Since) (p : Port) (rest : List Byte) (s : State) (t : Telegram) : Prop :=
  (s.port p).line = .down ∧ (s.port p).assembly = none ∧ t.kind = .reply ∧
    (∃ x, (s.port p).lostFrame = some x ∧ x.moment = s.now + w.elapsed ∧ (x.frame.pushAll rest).checkWordRight = true ∧
      (x.frame.pushAll rest).telegram = some t) ∧
    ∃ i e, Treated (received w p s) p t i e ∧ e.action = .track

/-- Intake checks 3 to 5 pass a telegram on to the Classifier of a SERVING gate (R7 to R10). -/
def ForClassifier (s : State) (t : Telegram) : Prop :=
  s.gate = .serving ∧ WellAddressed s.station t ∧ t.dest ≠ s.station ∧ t.reach ≠ 0

/-- A frame end at `p` delivers `t` to the Classifier: at a port that receives (R5 to R10), or at one just lost (R65). -/
def Crosses (w : Since) (p : Port) (rest : List Byte) (s : State) (t : Telegram) : Prop :=
  ((receiving p s = true ∧ Framed p rest s t) ∨ FramedAtLoss w p rest s t) ∧ ForClassifier s t

/-- The entry makes the Exchange Tracker's agreement necessary (R24). -/
def tracked (e : RuleEntry) (t : Telegram) : Bool :=
  decide (e.action = .track) && (decide (t.kind = .poll) || decide (t.kind = .reply))

/-- The capture request of a decision (R41, R133, R135). -/
def captured (p : Port) (i : RuleIndex) (e : RuleEntry) (t : Telegram) (outcome : CaptureOutcome) (u : State) : State :=
  if e.capture then
    if u.captures.length < 16 then
      { u with captures := u.captures ++
          [{ port := p, rule := i, generation := u.generation, outcome := outcome, dest := t.dest, source := t.source,
             kind := t.kind, mark := t.mark, reach := t.reach, tag := t.tag, payloadLength := byteOf t.payload.length,
             kept := t.payload.take 200, truncated := decide (200 < t.payload.length) }] }
    else { u with overflow := overflowUp u.overflow }
  else u

/-- A decision ended by a discarding step: one tally and the capture, and nothing else (R32, R40, R41). -/
def discarded (p : Port) (i : RuleIndex) (e : RuleEntry) (t : Telegram) (x : Discard) (u : State) : State :=
  captured p i e t x.outcome (tallied e.group x.counter 1 u)

/-- Steps 2 to 4 let a telegram from `p` pass (R34 to R36). -/
def Clear (p : Port) (u : State) : Prop :=
  u.hold p.direction = false ∧ (u.port p.other).line = .up ∧ (u.port p.other).forwardQ.length < 12

/-- The telegram is within rate, or its entry names no profile (R37, R72, R75). -/
def within (e : RuleEntry) (t : Telegram) (u : State) : Bool :=
  match e.profile with
  | none => true
  | some n =>
    decide ((match u.profiles[n].mode with | .perTelegram => 1 | .perSize => 1 + t.payload.length / 32) ≤
      u.profiles[n].credits.toNat)

/-- The charge of a telegram that is within rate (R76). -/
def charged (e : RuleEntry) (t : Telegram) (u : State) : State :=
  match e.profile with
  | none => u
  | some n =>
    if within e t u then
      { u with profiles := u.profiles.set n { u.profiles[n] with
          credits := BitVec.ofNat 8 (u.profiles[n].credits.toNat -
            (match u.profiles[n].mode with | .perTelegram => 1 | .perSize => 1 + t.payload.length / 32)) } }
    else u

/-- Step 5 does not discard: within rate, or MARK with the group to be tallied sound (R37). -/
def RateAllows (e : RuleEntry) (t : Telegram) (u : State) : Prop :=
  within e t u = true ∨ (e.overRate = .mark ∧ SoundGroup e.group u)

/-- A telegram joins the tail of a Forward Queue, and a free transmitter takes at once (R14, R17, R39). -/
def Joins (now bt : Nat) (x : Forwarded) (q q' : PortState) : Prop := Takes now bt { q with forwardQ := q.forwardQ ++ [x] } q'

/-- The telegram is enqueued over the state `v` that the charge, the tracker's change and its tally have made: over-rate marked is
tallied when step 5 marked it, the capture is made, and it joins the output queue with reach one lower (R39, R41, R42). -/
def Enqueued (p : Port) (i : RuleIndex) (e : RuleEntry) (t : Telegram) (marked : Bool) (v s' : State) : Prop :=
  let x : Forwarded := { telegram := { t with reach := t.reach - 1, mark := t.mark || marked }, group := e.group }
  let v' := if marked then tallied e.group .overRateMarked 1 v else v
  s' = (captured p i e t (if marked then .enqueuedMarked else .enqueued) v').setPort p.other (s'.port p.other) ∧
    Joins v.now (byteTime v.sampled.rts) x (v.port p.other) (s'.port p.other)

/-- Every open exchange's check code is right (R68). -/
def SoundPet (u : State) : Prop := ∀ x ∈ u.pet, u.petSound[x.slot] = true

/-- Steps 1 to 5 let a telegram pass (R33 to R37). -/
def ReachesTracker (p : Port) (e : RuleEntry) (t : Telegram) (u : State) : Prop :=
  e.action ≠ .block ∧ Clear p u ∧ (within e t u = true ∨ e.overRate = .mark)

/-- The decision of `t`, treated by `e`, ends at the discarding step with cause `x` (R33 to R38, R50, R51, R56). -/
def EndsAt (p : Port) (e : RuleEntry) (t : Telegram) (u : State) (x : Discard) : Prop :=
  let asks (kind : Kind) : Prop := ReachesTracker p e t u ∧ e.action = .track ∧ t.kind = kind ∧ SoundPet u
  let unopened : Prop := ∀ y ∈ u.pet, y.key ≠ pollKey t
  let unanswered : Prop := ∀ y ∈ u.pet, ¬(y.key = replyKey t ∧ y.port = p.other)
  match x with
  | .blocked => e.action = .block
  | .held => e.action ≠ .block ∧ u.hold p.direction = true
  | .lineLost => e.action ≠ .block ∧ u.hold p.direction = false ∧ (u.port p.other).line = .down
  | .queueFull => e.action ≠ .block ∧ u.hold p.direction = false ∧ (u.port p.other).line = .up ∧
      12 ≤ (u.port p.other).forwardQ.length
  | .overRateDropped => e.action ≠ .block ∧ Clear p u ∧ within e t u = false ∧ e.overRate = .drop
  | .retryRefused => asks .poll ∧ ∃ y ∈ u.pet, y.key = pollKey t ∧ (y.port ≠ p ∨ y.used = y.allowance)
  | .tableFull => asks .poll ∧ unopened ∧ u.pet.length = 64
  | .requesterLimit => asks .poll ∧ unopened ∧ u.pet.length < 64 ∧
      u.settings.requesterLimit.toNat ≤ (u.pet.countP fun y => decide (y.key.requester = t.source))
  | .late => asks .reply ∧ unanswered ∧ replyKey t ∈ u.ring
  | .unsolicited => asks .reply ∧ unanswered ∧ replyKey t ∉ u.ring

/-- What step 7 makes of the state before any of its tallies, and the tracker's tally there: the charge, and the open, retry or close
(R39, R52, R53, R57, R76). -/
def CarriedOut (p : Port) (i : RuleIndex) (e : RuleEntry) (t : Telegram) (u v : State) (tally : Option (Option Group × Counter)) :
    Prop :=
  let w := charged e t u
  let deadline (k : BitVec 2) : Moment := u.now + u.settings.classMs[k.toNat].toNat * 4000
  (tracked e t = false ∧ v = w ∧ tally = none) ∨
  (e.action = .track ∧ t.kind = .poll ∧ (∀ x ∈ u.pet, x.key ≠ pollKey t) ∧ u.pet.length < 64 ∧
    (u.pet.countP fun x => decide (x.key.requester = t.source)) < u.settings.requesterLimit.toNat ∧
    tally = some (e.group, .opened) ∧
    ∃ slot : Fin 64, (∀ x ∈ u.pet, x.slot ≠ slot) ∧ (∀ j < slot, ∃ x ∈ u.pet, x.slot = j) ∧
      v = { w with
        pet := u.pet ++
          [{ key := pollKey t, port := p, rule := i, group := e.group, timeoutClass := e.timeoutClass,
             deadline := deadline e.timeoutClass, used := 0, allowance := e.allowance, notice := e.notice,
             number := u.openCounter, slot := slot }],
        petSound := u.petSound.set slot true, ring := u.ring.filter fun k => decide (k ≠ pollKey t),
        openCounter := u.openCounter + 1 }) ∨
  (∃ x ∈ u.pet, e.action = .track ∧ t.kind = .poll ∧ x.key = pollKey t ∧ x.port = p ∧ x.used.toNat < x.allowance.toNat ∧
    tally = some (x.group, .retried) ∧
    v = { w with pet := u.pet.map fun y =>
            if y.key = x.key then { y with used := y.used + 1, deadline := deadline x.timeoutClass } else y }) ∨
  (∃ x ∈ u.pet, e.action = .track ∧ t.kind = .reply ∧ x.key = replyKey t ∧ x.port = p.other ∧
    tally = some (x.group, .answered) ∧ v = { w with pet := u.pet.filter fun y => decide (y.key ≠ x.key) })

/-! ## The terms of claims about the transmitter, the start and the settings -/

/-- The transmitter of `p` takes again, and nothing else changes (R17). -/
def TakesAgain (p : Port) (u t : State) : Prop :=
  t = u.setPort p (t.port p) ∧ Takes u.now (byteTime u.sampled.rts) (u.port p) (t.port p)

/-- A port with every queue empty, every counter 0, no record and no notice pending (R19, R20, R157, R185). -/
def blankPort (signal : Bool) (line : LineState) (timing : Option Moment) : PortState :=
  { signal := signal, line := line, timing := timing, assembly := none, lostFrame := none, forwardQ := [],
    localQ := [], sending := none, counters := Vector.replicate 13 0, lastAnswer := none, noticePending := false }

/-- The gate at the start of STARTING: every block at its reset value, the straps sampled, the two ports as given (R194, R195). -/
def started (portC portF : PortState) (u : State) : State :=
  { State.reset with now := u.now, strapPins := u.strapPins, sampled := u.strapPins, portC := portC, portF := portF,
                     pending := u.pending }

/-- The gate after a restart is carried out: each line monitor as it stood (R201). -/
def restarted (u : State) : State :=
  started (blankPort u.portC.signal u.portC.line u.portC.timing) (blankPort u.portF.signal u.portF.line u.portF.timing) u

/-- The gate after power-on: each line monitor samples its line (R11, R202). -/
def poweredOn (u : State) : State :=
  started (blankPort u.portC.signal (if u.portC.signal then .up else .down) none)
    (blankPort u.portF.signal (if u.portF.signal then .up else .down) none) u

/-- The bytes of one of the thirteen settings fields, numbered from 0 in the order of R166, with FFh for absent (R206). -/
def fieldBytes (x : Settings) (k : Fin 13) : List Byte :=
  match k with
  | 0 => [match x.actionDown with | .pass => 0 | .block => 1]
  | 1 => [match x.actionUp with | .pass => 0 | .block => 1]
  | 2 => [match x.groupDown with | none => 0xFF | some g => byteOf g.val]
  | 3 => [match x.groupUp with | none => 0xFF | some g => byteOf g.val]
  | 4 => [x.requesterLimit]
  | 5 => [x.classMs[0].extractLsb' 8 8, x.classMs[0].extractLsb' 0 8]
  | 6 => [x.classMs[1].extractLsb' 8 8, x.classMs[1].extractLsb' 0 8]
  | 7 => [x.classMs[2].extractLsb' 8 8, x.classMs[2].extractLsb' 0 8]
  | 8 => [x.classMs[3].extractLsb' 8 8, x.classMs[3].extractLsb' 0 8]
  | 9 => [match x.access with | .closed => 0 | .inquire => 1 | .full => 2]
  | 10 => [match x.noticeC with | none => 0xFF | some n => n]
  | 11 => [match x.noticeF with | none => 0xFF | some n => n]
  | 12 => [0#4 ++ x.answerReach]

/-- The seventeen bytes of a settings record (R166, R206). -/
def settingsBytes (x : Settings) : List Byte := (List.finRange 13).flatMap (fieldBytes x)

/-- The bytes of the fields below number `n` that a presence mask names, in field order (R167). -/
def namedBytes (mask : Half) (n : Nat) (x : Settings) : List Byte :=
  ((List.finRange 13).filter fun k => mask.getLsbD k.val && decide (k.val < n)).flatMap (fieldBytes x)

/-- The settings whose fields named by a presence mask are those of `x` and whose others are those of `old` (R162, R167). -/
def chosenFields (mask : Half) (x old : Settings) : Settings :=
  let pick {α : Type} (k : Nat) (new kept : α) : α := if mask.getLsbD k then new else kept
  { actionDown := pick 0 x.actionDown old.actionDown, actionUp := pick 1 x.actionUp old.actionUp,
    groupDown := pick 2 x.groupDown old.groupDown, groupUp := pick 3 x.groupUp old.groupUp,
    requesterLimit := pick 4 x.requesterLimit old.requesterLimit,
    classMs := Vector.ofFn fun k : Fin 4 => pick (5 + k.val) x.classMs[k] old.classMs[k],
    access := pick 9 x.access old.access, noticeC := pick 10 x.noticeC old.noticeC,
    noticeF := pick 11 x.noticeF old.noticeF, answerReach := pick 12 x.answerReach old.answerReach }

/-- A field's bytes hold a value outside its range (R161, R167). -/
def FieldOutOfRange (k : Fin 13) (bytes : List Byte) : Prop :=
  if 5 ≤ k.val ∧ k.val ≤ 8 then bytes = [0, 0]
  else ∃ b : Byte, bytes = [b] ∧
    (if k.val ≤ 1 then 1 < b.toNat
    else if k.val ≤ 3 then 31 < b.toNat ∧ b ≠ 255
    else if k.val = 4 then b = 0 ∨ 16 < b.toNat
    else if k.val = 9 then 2 < b.toNat
    else if k.val = 12 then b = 0 ∨ 15 < b.toNat
    else stationOk b = false ∧ b ≠ 255)

/-- Every value of an entry lies in the ranges of R21 that are narrower than its field's type. -/
def EntryOk (e : RuleEntry) : Prop :=
  stationOk e.sourceLow = true ∧ stationOk e.sourceHigh = true ∧ (stationOk e.destLow = true ∨ e.destLow = 255) ∧
    (stationOk e.destHigh = true ∨ e.destHigh = 255)

/-- Byte `off` of an encoded entry lies in its range (R86, R204). -/
def EntryByteOk (off : Nat) (b : Byte) : Prop :=
  if off = 0 then b.extractLsb' 3 2 ≠ 3
  else if off = 1 ∨ off = 2 then stationOk b = true
  else if off = 3 ∨ off = 4 then stationOk b = true ∨ b = 255
  else if off = 6 then b.toNat < 32 ∨ b = 255
  else if off = 7 then b.toNat < 16 ∨ b = 255
  else if off = 8 then b.toNat < 16
  else True

/-! ## The terms of claims about parameters -/

/-- A parameter of an order whose parameters have a fixed sequence (R163). -/
inductive Parameter where
  /-- `n` bytes, every value in range: a group set, a skip count, a capacity. -/
  | bytes (n : Nat)
  /-- One byte, in range from `low` to `high`. -/
  | byte (low high : Nat)
  /-- Two bytes, in range from `low` to `high`. -/
  | half (low high : Nat)
  /-- A count 1..16 that, with the index in the byte before it, reaches `n` at most. -/
  | count (n : Nat)
deriving DecidableEq, Repr

/-- How many bytes a parameter takes (R163). -/
def Parameter.size : Parameter → Nat
  | .bytes n => n
  | .byte _ _ => 1
  | .half _ _ => 2
  | .count _ => 1

/-- A parameter's own bytes lie in range, after the bytes `seen` (R163). -/
def Parameter.inRange (seen own : List Byte) : Parameter → Bool
  | .bytes _ => true
  | .byte low high => own.all fun x => decide (low ≤ x.toNat) && decide (x.toNat ≤ high)
  | .half low high =>
    match own with
    | [hi, lo] => decide (low ≤ hi.toNat * 256 + lo.toNat) && decide (hi.toNat * 256 + lo.toNat ≤ high)
    | _ => false
  | .count n =>
    match seen.getLast?, own with
    | some first, [x] => decide (1 ≤ x.toNat) && decide (x.toNat ≤ 16) && decide (first.toNat + x.toNat ≤ n)
    | _, _ => false

/-- The parameters of an order after its code; none for the three orders that carry a list (R163, R164, R166, R169 to R183). -/
def parametersOf : OrderCode → Option (List Parameter)
  | .status => some []
  | .configRead => some []
  | .configWrite => none
  | .rulesRead => some [.byte 0 1, .byte 0 127, .count 128]
  | .stageWrite => none
  | .stageClear => some []
  | .stageClone => some []
  | .commit => some [.byte 0 3]
  | .abandon => some []
  | .hold => some [.byte 1 3]
  | .release => some [.byte 1 3]
  | .profileRead => some [.byte 0 15, .count 16]
  | .profileWrite => some [.byte 0 15, .bytes 1, .byte 1 255, .half 1 1000, .byte 0 1]
  | .exchangeList => some [.bytes 1]
  | .exchangeFlush => some []
  | .snapshot => some [.bytes 4, .byte 0 1]
  | .snapshotRead => some [.bytes 4]
  | .tallyClear => some [.bytes 4]
  | .portCounters => some [.byte 1 3, .byte 0 1]
  | .captureRead => some []
  | .captureClear => some []
  | .wordRead => some [.byte 0 15, .count 16]
  | .wordWrite => none
  | .restart => some []

/-- The position of the first fault of a parameter check, none when it passes (R150, R163): for each parameter in turn its bytes
are all present, then in range; after the last no byte follows. -/
def firstFault (seen : List Byte) : List Parameter → List Byte → Option Nat
  | [], rest => if rest = [] then none else some (seen.length + 1)
  | x :: xs, rest =>
    if rest.length < x.size then some (seen.length + rest.length + 1)
    else if x.inRange seen (rest.take x.size) then firstFault (seen ++ rest.take x.size) xs (rest.drop x.size)
    else some (seen.length + 1)

end Sys2Proof.Safety
end

