-- ==== Sys2Proof/Certificates/Slice0/Obligations.lean ====
section
/-! DEFINITION. Certificates/Slice0/Obligations.lean: the statements for the provers, in the order of OBLIGATIONS.json. Their terms
are defined in Safety.lean. -/

open Sys2Proof Sys2Proof.Machine Sys2Proof.Safety

/-! ## The step, reset and the invariants -/

/-- A step takes the command at the front of the queue and executes it with the queue's rest; on an empty queue the gate idles
(the model's choice, log entry 1). -/
def Obligations.StepRunsTheFrontCommand : Prop :=
  (∀ (c : Instr) (rest : List Instr) (s : State), step { s with pending := c :: rest } = exec c { s with pending := rest }) ∧
    ∀ s : State, s.pending = [] → step s = .next s

/-- The values that the spec gives for the start: sections 1.5, 1.6, 2.1, 2.2, 3.1, 4.1, 5.6, 6.1, 6.3, 7.1, 8.4 to 8.7, 10.1, 11.3. -/
def Obligations.ResetHoldsTheValuesOfStart : Prop :=
  let s := State.reset
  s.gate = .starting ∧ s.fault = none ∧ s.activeBank = .a ∧ s.generation = 0 ∧
    (∀ (which : Bank) (i : RuleIndex), (s.bank which)[i] =
      Checked.fresh { inUse := false, downward := false, upward := false, sourceLow := 1, sourceHigh := 1, destLow := 1,
                      destHigh := 1, kinds := 0, action := .pass, group := none, profile := none, overRate := .drop,
                      capture := false, timeoutClass := 0, allowance := 0, notice := false }) ∧
    s.pet = [] ∧ s.ring = [] ∧ s.openCounter = 0 ∧
    (∀ n : Fin 16, s.profiles[n] = { capacity := 0, amount := 1, period := 1000, mode := .perTelegram, credits := 0,
                                     nextExpiry := none }) ∧
    s.holdDown = true ∧ s.holdUp = true ∧
    (∀ (g : Group) (k : Fin 18), s.tallies[g].item[k] = 0 ∧ s.snapshots[g] = none) ∧
    s.captureSeq = 0 ∧ s.captures = [] ∧ s.overflow = 0 ∧ s.slot = .idle ∧ s.outcome = none ∧
    s.settings = { actionDown := .block, actionUp := .block, groupDown := none, groupUp := none, requesterLimit := 4,
                   classMs := #v[50, 200, 1000, 5000], access := .inquire, noticeC := none, noticeF := none,
                   answerReach := 15 } ∧
    (∀ i : Fin 16, s.words[i] = 0) ∧
    ∀ p : Port, (s.port p).forwardQ = [] ∧ (s.port p).localQ = [] ∧ (s.port p).sending = none ∧ (s.port p).assembly = none ∧
      (s.port p).lostFrame = none ∧ (s.port p).lastAnswer = none ∧ (s.port p).noticePending = false ∧ ∀ k : Fin 13, (s.port p).counters[k] = 0

/-- The gate right after reset meets every invariant. -/
def Obligations.ResetMeetsTheInvariants : Prop :=
  LinesOk State.reset ∧ HoldsOk State.reset ∧ TrackerOk State.reset ∧ RatesOk State.reset ∧ RulesOk State.reset ∧
    StoppedOk State.reset ∧ CapturesOk State.reset ∧ SettingsOk State.reset

/-- Queue capacities, the free transmitter and the DOWN line hold in every state that a step reaches from one that keeps them
(R12 to R17), and a set forward hold keeps its Forward Queue empty (R107). -/
def Obligations.StepKeepsLinesAndHolds : Prop :=
  (∀ s t : State, LinesOk s → step s = .next t → LinesOk t) ∧ ∀ s t : State, HoldsOk s → step s = .next t → HoldsOk t

/-- The PET and the Lapsed Ring stay consistent (R43 to R45, R49, R70). -/
def Obligations.StepKeepsTrackerOk : Prop :=
  ∀ s t : State, TrackerOk s → step s = .next t → TrackerOk t

/-- Credits never exceed the capacity, and a period runs exactly for a defined profile (R73, R74). -/
def Obligations.StepKeepsRatesOk : Prop :=
  ∀ s t : State, RatesOk s → step s = .next t → RatesOk t

/-- Every in-use Active entry passes validation, and a commit in flight holds the result its bank gives (R91, R92). -/
def Obligations.StepKeepsRulesOk : Prop :=
  ∀ s t : State, RulesOk s → step s = .next t → RulesOk t

/-- A gate that is not SERVING forwards and tracks nothing and has no commit in flight (R195, R198, R199). -/
def Obligations.StepKeepsStoppedOk : Prop :=
  ∀ s t : State, StoppedOk s → step s = .next t → StoppedOk t

/-- The Capture Queue's bounds and the settings' ranges (R131, R133, R161). -/
def Obligations.StepKeepsCapturesAndSettings : Prop :=
  ∀ s t : State, CapturesOk s → SettingsOk s → step s = .next t → CapturesOk t ∧ SettingsOk t

/-! ## Rules over every command -/

/-- A telegram comes to stand in a Forward Queue, or in the hands of a transmitter that took it from there, only at the frame end of
the opposite port, as that frame's telegram with reach one lower and the mark kept or set; reach 0 is never forwarded (R14, R17,
R42). The frame end may be that of a REPLY at a port just lost, which R65 still has decided (log entry 24). -/
def Obligations.OnlyAFrameEndForwards : Prop :=
  let carries (p : Port) (x : Forwarded) (s : State) : Prop :=
    x ∈ (s.port p).forwardQ ∨ ∃ y, (s.port p).sending = some y ∧ y.item = .forwarded x
  ∀ (c : Instr) (s t : State) (p : Port) (x : Forwarded), exec c s = .next t → carries p x t →
    carries p x s ∨
      ∃ (w : Since) (rest : List Byte) (u : Telegram) (marked : Bool),
        c = .frameEnd w p.other rest ∧ (Framed p.other rest s u ∨ FramedAtLoss w p.other rest s u) ∧ u.reach ≠ 0 ∧
          x.telegram = { u with reach := u.reach - 1, mark := u.mark || marked }

/-- The Active role, the generation and the Active entries change only when a commit's validation ends or the gate starts again
(R27, R85, R95). -/
def Obligations.ActiveRulesChangeOnlyAtCommitOrStart : Prop :=
  ∀ (c : Instr) (s t : State), exec c s = .next t →
    (t.activeBank = s.activeBank ∧ t.generation = s.generation ∧
      ∀ i : RuleIndex, (t.bank t.activeBank)[i].item = (s.bank s.activeBank)[i].item) ∨
    (∃ w, c = .validationComplete w) ∨ t.gate = .starting

/-- A HELD snapshot slot keeps its values until the order SNAPSHOT_READ is delivered, as its row or by a frame end that carries it,
or a start (R118, R123, R142). An order row whose operands no line can bring is no command of the gate. -/
def Obligations.HeldSlotsKeepTheirValues : Prop :=
  ∀ (c : Instr) (s t : State) (g : Group) (x : Snapshot), c.wellFormed = true → exec c s = .next t → s.snapshots[g] = some x →
    (∃ y, t.snapshots[g] = some y ∧ y.counters = x.counters ∧ y.saturated = x.saturated ∧ y.generation = x.generation ∧
      y.sequence = x.sequence) ∨
    Delivers .snapshotRead c s ∨ t.gate = .starting

/-! ## Encodings -/

/-- A telegram's bytes, received byte by byte, pass the check word and are read back as that telegram (R4, R203). -/
def Obligations.TelegramsRoundTrip : Prop :=
  ∀ t : Telegram, t.payload.length ≤ 240 →
    (Assembly.empty.pushAll t.frame).checkWordRight = true ∧ (Assembly.empty.pushAll t.frame).telegram = some t

/-- An entry in range, encoded and decoded, is that entry; nine bytes that decode to an entry are read back as they were written,
but for the two high bits of the kind set (R204). -/
def Obligations.RuleEntriesRoundTrip : Prop :=
  (∀ e : RuleEntry, EntryOk e → ∃ b0 b1 b2 b3 b4 b5 b6 b7 b8, e.encode = [b0, b1, b2, b3, b4, b5, b6, b7, b8] ∧
      RuleEntry.decode b0 b1 b2 b3 b4 b5 b6 b7 b8 = .ok e) ∧
    ∀ (b0 b1 b2 b3 b4 b5 b6 b7 b8 : Byte) (e : RuleEntry), RuleEntry.decode b0 b1 b2 b3 b4 b5 b6 b7 b8 = .ok e →
      EntryOk e ∧ e.encode = [b0, b1, b2, b3, b4, b5 &&& 0x3F, b6, b7, b8]

/-- The spec's own encoded examples: the check word of R4, the entry and the header of section 12.6, the entry of R204. -/
def Obligations.SampleEncodings : Prop :=
  crcOf [0x31, 0x32, 0x33, 0x34, 0x35, 0x36, 0x37, 0x38, 0x39] = 0x29B1 ∧
    RuleEntry.decode 0xB6 0x0A 0x13 0x64 0x95 0x01 0x03 0x04 0x05 = .ok
      { inUse := true, downward := true, upward := false, sourceLow := 10, sourceHigh := 19, destLow := 100, destHigh := 149,
        kinds := 1, action := .track, group := some 3, profile := some 4, overRate := .drop, capture := true,
        timeoutClass := 1, allowance := 1, notice := true } ∧
    RuleEntry.reset.encode = [0x00, 0x01, 0x01, 0x01, 0x01, 0x00, 0xFF, 0xFF, 0x00] ∧
    headerBytes 120 12 .poll false 3 7 10 = [0x78, 0x0C, 0x23, 0x07, 0x0A]

/-! ## Frames and intake (chapter 1) -/

/-- The first byte of a frame is stored at a port that receives and assembles no frame; nothing else changes (R2, R4). Elsewhere a
byte has no effect: R10 and R12 say so of a port that does not receive, and for a frame under way it is the model's choice (log
entry 7). A frame end where no frame is under way has none either (the model's choice, log entry 7), but for the REPLY that R65
still has decided at a port just lost (log entry 24). -/
def Obligations.FrameBeginStoresTheFirstByte : Prop :=
  ∀ (w : Since) (p : Port) (first : Byte) (s : State),
    (receiving p s = true → (s.port p).assembly = none →
      exec (.frameBegin w p first) s = .next ((lapse w s).onPort p fun q =>
        { q with assembly := some { stored := [first], length := 1, crc := 0xFFFF, tail := [first] } })) ∧
    (receiving p s = false ∨ (s.port p).assembly ≠ none → exec (.frameBegin w p first) s = .next (lapse w s)) ∧
    ∀ rest, receiving p s = false ∨ (s.port p).assembly = none → (∀ t, ¬(FramedAtLoss w p rest s t ∧ ForClassifier s t)) →
      exec (.frameEnd w p rest) s = .next (lapse w s)

/-- R5: a frame of fewer than 7 bytes, or whose last two bytes are not the check word of the others, is discarded and counted in
check errors; it leaves no other trace. -/
def Obligations.WrongCheckWordIsCounted : Prop :=
  ∀ (w : Since) (p : Port) (first : Byte) (rest : List Byte) (s : State),
    receiving p s = true → (s.port p).assembly = some (Assembly.empty.push first) →
    (first :: rest).length < 7 ∨
      (first :: rest).drop (rest.length - 1) ≠ halfBytes (crcOf ((first :: rest).take (rest.length - 1))) →
    exec (.frameEnd w p rest) s =
      .next ((lapse w s).onPort p fun q => { q.count .checkErrors 1 with assembly := none })

/-- R6: a frame with a right check word is ill-formed exactly for a length field above 240, a length that is not 7 plus that field,
an undefined kind code or a nonzero high bit of the tag byte; it is then discarded and counted; a frame of more than 247 bytes is
always ill-formed. -/
def Obligations.IllFormedFrameIsCounted : Prop :=
  ∀ (w : Since) (p : Port) (first b1 b2 b3 b4 : Byte) (tail : List Byte) (s : State),
    receiving p s = true → (s.port p).assembly = some (Assembly.empty.push first) →
    let rest := b1 :: b2 :: b3 :: b4 :: tail
    let frame := (Assembly.empty.push first).pushAll rest
    frame.checkWordRight = true →
      (frame.telegram = none ↔
        (240 < b4.toNat ∨ rest.length + 1 ≠ 7 + b4.toNat ∨ b2.toNat / 32 = 0 ∨ b2.toNat / 32 = 7 ∨ 64 ≤ b3.toNat)) ∧
      (247 < rest.length + 1 → frame.telegram = none) ∧
      (frame.telegram = none → exec (.frameEnd w p rest) s =
        .next ((lapse w s).onPort p fun q => { q.count .illFormed 1 with assembly := none }))

/-- R7 to R10: a well-formed telegram that is ill-addressed, or is addressed to the gate and is no ORDER, is counted
ill-addressed; one for another station with reach 0 is counted reach exhausted; one for the Classifier of a HALTED gate is counted
discarded while halted; each is discarded with no other effect. -/
def Obligations.IntakeDiscardsWithOneCount : Prop :=
  ∀ (w : Since) (p : Port) (rest : List Byte) (s : State) (t : Telegram),
    receiving p s = true → Framed p rest s t →
    let counted (k : PortCounter) : State := (lapse w s).onPort p fun q => { q.count k 1 with assembly := none }
    (¬WellAddressed s.station t ∨ (t.dest = s.station ∧ t.kind ≠ .order) →
      exec (.frameEnd w p rest) s = .next (counted .illAddressed)) ∧
    (WellAddressed s.station t → t.dest ≠ s.station → t.reach = 0 →
      exec (.frameEnd w p rest) s = .next (counted .reachExhausted)) ∧
    (WellAddressed s.station t → t.dest ≠ s.station → t.reach ≠ 0 → s.gate = .halted →
      exec (.frameEnd w p rest) s = .next (counted .discardedWhileHalted))

/-- A frame end that carries an ORDER to the gate is the order's row: it does what the row of its order code does, or the row of
unknown orders when its payload is empty or begins with a code of no order (R8, R141, R142; log entry 8). -/
def Obligations.FrameEndDeliversAnOrder : Prop :=
  ∀ (w : Since) (p : Port) (rest : List Byte) (s : State) (t : Telegram),
    Framed p rest s t → WellAddressed s.station t → t.dest = s.station → t.kind = .order →
    let h : OrderHead := { source := t.source, tag := t.tag }
    (∀ (k : OrderCode) (args : List Byte), t.payload = k.byte :: args →
      exec (.frameEnd w p rest) s = exec (orderInstr k w p h args) s) ∧
    (t.payload.head?.any orderCodeAssigned = false →
      exec (.frameEnd w p rest) s = exec (.unknownOrder w p h t.payload) s)

/-! ## The forward decision (chapters 2 to 4) -/

/-- Steps 1 to 4, in their order: BLOCK, forward hold, output port DOWN, Forward Queue full. The telegram is discarded, its cause
tallied in its group and captured where the entry asks; nothing else changes (R33 to R36, R41). -/
def Obligations.DiscardingStepsOneToFour : Prop :=
  ∀ (w : Since) (p : Port) (rest : List Byte) (s : State) (t : Telegram) (i : RuleIndex) (e : RuleEntry),
    Crosses w p rest s t →
    let u := received w p s
    Treated u p t i e → SoundGroup e.group u →
    (e.action = .block → exec (.frameEnd w p rest) s = .next (discarded p i e t .blocked u)) ∧
    (e.action ≠ .block → u.hold p.direction = true → exec (.frameEnd w p rest) s = .next (discarded p i e t .held u)) ∧
    (e.action ≠ .block → u.hold p.direction = false → (u.port p.other).line = .down →
      exec (.frameEnd w p rest) s = .next (discarded p i e t .lineLost u)) ∧
    (e.action ≠ .block → u.hold p.direction = false → (u.port p.other).line = .up →
      12 ≤ (u.port p.other).forwardQ.length → exec (.frameEnd w p rest) s = .next (discarded p i e t .queueFull u))

/-- Steps 5 and 7 for a telegram that is not tracked: over rate under DROP it is discarded; otherwise it is enqueued, charged when
within rate and marked when not (R37, R39, R72, R76, R77). -/
def Obligations.UntrackedTelegramIsRatedAndEnqueued : Prop :=
  ∀ (w : Since) (p : Port) (rest : List Byte) (s : State) (t : Telegram) (i : RuleIndex) (e : RuleEntry),
    Crosses w p rest s t →
    let u := received w p s
    Treated u p t i e → e.action ≠ .block → Clear p u →
    (within e t u = false → e.overRate = .drop → SoundGroup e.group u →
      exec (.frameEnd w p rest) s = .next (discarded p i e t .overRateDropped u)) ∧
    (tracked e t = false → RateAllows e t u →
      ∃ s', exec (.frameEnd w p rest) s = .next s' ∧ Enqueued p i e t (!within e t u) (charged e t u) s')

/-- A POLL under TRACK whose key is not open, with room in the table and below the requester limit, is enqueued and opens an
exchange (R43, R48, R50, R52). -/
def Obligations.PollOpensAnExchange : Prop :=
  ∀ (w : Since) (p : Port) (rest : List Byte) (s : State) (t : Telegram) (i : RuleIndex) (e : RuleEntry),
    Crosses w p rest s t →
    let u := received w p s
    let key : Key := { requester := t.source, responder := t.dest, tag := t.tag }
    Treated u p t i e → e.action = .track → t.kind = .poll → Clear p u → RateAllows e t u → SoundGroup e.group u → SoundPet u →
    (∀ x ∈ u.pet, x.key ≠ key) → u.pet.length < 64 →
    (u.pet.countP fun x => decide (x.key.requester = t.source)) < u.settings.requesterLimit.toNat →
    ∃ (slot : Fin 64) (s' : State),
      (∀ x ∈ u.pet, x.slot ≠ slot) ∧ (∀ j < slot, ∃ x ∈ u.pet, x.slot = j) ∧
      exec (.frameEnd w p rest) s = .next s' ∧
      Enqueued p i e t (!within e t u)
        (tallied e.group .opened 1
          { charged e t u with
            pet := u.pet ++
              [{ key := key, port := p, rule := i, group := e.group, timeoutClass := e.timeoutClass,
                 deadline := u.now + u.settings.classMs[e.timeoutClass.toNat].toNat * 4000, used := 0,
                 allowance := e.allowance, notice := e.notice, number := u.openCounter, slot := slot }],
            petSound := u.petSound.set slot true, ring := u.ring.filter fun k => decide (k ≠ key),
            openCounter := u.openCounter + 1 }) s'

/-- A POLL that repeats an open exchange from the requester's side within its allowance is enqueued; one retry is used and the
deadline restarted (R48, R51, R53). -/
def Obligations.PollRetriesAnExchange : Prop :=
  ∀ (w : Since) (p : Port) (rest : List Byte) (s : State) (t : Telegram) (i : RuleIndex) (e : RuleEntry) (x : PetEntry),
    TrackerOk s → Crosses w p rest s t →
    let u := received w p s
    Treated u p t i e → e.action = .track → t.kind = .poll → Clear p u → RateAllows e t u → SoundPet u →
    x ∈ u.pet → x.key = { requester := t.source, responder := t.dest, tag := t.tag } → x.port = p →
    x.used.toNat < x.allowance.toNat → SoundGroup x.group u →
    ∃ s', exec (.frameEnd w p rest) s = .next s' ∧
      Enqueued p i e t (!within e t u)
        (tallied x.group .retried 1
          { charged e t u with
            pet := u.pet.map fun y =>
              if y.key = x.key then
                { y with used := y.used + 1,
                         deadline := u.now + u.settings.classMs[x.timeoutClass.toNat].toNat * 4000 }
              else y }) s'

/-- A REPLY under TRACK from the responder's side of an open exchange is enqueued and closes it (R56, R57). -/
def Obligations.ReplyClosesAnExchange : Prop :=
  ∀ (w : Since) (p : Port) (rest : List Byte) (s : State) (t : Telegram) (i : RuleIndex) (e : RuleEntry) (x : PetEntry),
    TrackerOk s → Crosses w p rest s t →
    let u := received w p s
    Treated u p t i e → e.action = .track → t.kind = .reply → Clear p u → RateAllows e t u → SoundPet u →
    x ∈ u.pet → x.key = { requester := t.dest, responder := t.source, tag := t.tag } → x.port = p.other →
    SoundGroup x.group u →
    ∃ s', exec (.frameEnd w p rest) s = .next s' ∧
      Enqueued p i e t (!within e t u)
        (tallied x.group .answered 1 { charged e t u with pet := u.pet.filter fun y => decide (y.key ≠ x.key) }) s'

/-- The tracker's refusals, each discarding the telegram with its cause in the telegram's own group; only a late reply changes the
tracker, by taking its key from the Lapsed Ring (R38, R50, R51, R54, R56). The REPLY at a port just lost is among the telegrams (R65; log
entry 24). -/
def Obligations.TrackerRefusals : Prop :=
  ∀ (w : Since) (p : Port) (rest : List Byte) (s : State) (t : Telegram) (i : RuleIndex) (e : RuleEntry),
    TrackerOk s → Crosses w p rest s t →
    let u := received w p s
    let asked : Key := { requester := t.source, responder := t.dest, tag := t.tag }
    let answered : Key := { requester := t.dest, responder := t.source, tag := t.tag }
    let result (x : Discard) (v : State) : Prop := exec (.frameEnd w p rest) s = .next (discarded p i e t x v)
    Treated u p t i e → e.action = .track → Clear p u → RateAllows e t u → SoundGroup e.group u → SoundPet u →
    (t.kind = .poll → ∀ x ∈ u.pet, x.key = asked → (x.port ≠ p ∨ x.used = x.allowance) → result .retryRefused u) ∧
    (t.kind = .poll → (∀ x ∈ u.pet, x.key ≠ asked) → u.pet.length = 64 → result .tableFull u) ∧
    (t.kind = .poll → (∀ x ∈ u.pet, x.key ≠ asked) → u.pet.length < 64 →
      u.settings.requesterLimit.toNat ≤ (u.pet.countP fun x => decide (x.key.requester = t.source)) →
      result .requesterLimit u) ∧
    (t.kind = .reply → (∀ x ∈ u.pet, ¬(x.key = answered ∧ x.port = p.other)) → answered ∈ u.ring →
      result .late { u with ring := u.ring.filter fun k => decide (k ≠ answered) }) ∧
    (t.kind = .reply → (∀ x ∈ u.pet, ¬(x.key = answered ∧ x.port = p.other)) → answered ∉ u.ring → result .unsolicited u)

/-- The faults of a forward decision (R28, R68, R116, R198). A wrong check code in an entry the lookup reads, or in an open exchange
the tracker's search reads, ends it without tally or capture and halts the gate; of several wrong exchanges the first in listing
order is found (the model's choice, log entry 10). One in the group that a discarding step, any of steps 1 to 6, tallies leaves the
discard and its capture and then halts it. At step 7 one in the group of the tracker's tally, or of over-rate marked, leaves the
charge, the tracker's change, the enqueue and the capture, and then halts it; the tracker's tally is made before over-rate marked
(the model's choice, log entry 23), and the transmitter takes after the halt (the model's choice, log entry 11). -/
def Obligations.ForwardDecisionFaultsHalt : Prop :=
  ∀ (w : Since) (p : Port) (rest : List Byte) (s : State) (t : Telegram),
    Crosses w p rest s t →
    let u := received w p s
    (∀ i : RuleIndex, PassedBelow (u.bank u.activeBank) p.direction t i.val → (u.bank u.activeBank)[i].sound = false →
      ∃ s', exec (.frameEnd w p rest) s = .next s' ∧ Halts (.ruleStore u.activeBank i) u s') ∧
    ∀ (i : RuleIndex) (e : RuleEntry), Treated u p t i e →
      (∀ (before after : List PetEntry) (x : PetEntry), tracked e t = true → ReachesTracker p e t u →
        u.pet = before ++ x :: after → (∀ y ∈ before, u.petSound[y.slot] = true) → u.petSound[x.slot] = false →
        ∃ s', exec (.frameEnd w p rest) s = .next s' ∧ Halts (.exchangeStore x.slot) u s') ∧
      (∀ (x : Discard) (g : Group), TrackerOk s → EndsAt p e t u x → e.group = some g → u.tallies[g].sound = false →
        let v := if x = .late then { u with ring := u.ring.filter fun k => decide (k ≠ replyKey t) } else u
        ∃ s', exec (.frameEnd w p rest) s = .next s' ∧ Halts (.tallyStore g) (captured p i e t x.outcome v) s') ∧
      ∀ (v : State) (tally : Option (Option Group × Counter)), TrackerOk s → ReachesTracker p e t u →
        (tracked e t = true → SoundPet u) → CarriedOut p i e t u v tally →
        let marked := !within e t u
        let x : Forwarded := { telegram := { t with reach := t.reach - 1, mark := t.mark || marked }, group := e.group }
        let halts (g : Group) (v' : State) : Prop :=
          let joined := v'.onPort p.other fun q => { q with forwardQ := q.forwardQ ++ [x] }
          ∃ m s', exec (.frameEnd w p rest) s = .next s' ∧
            Halts (.tallyStore g) (captured p i e t (if marked then .enqueuedMarked else .enqueued) joined) m ∧
            TakesAgain p.other m s'
        (∀ g k, tally = some (some g, k) → u.tallies[g].sound = false → halts g v) ∧
        ∀ g, marked = true → e.group = some g → u.tallies[g].sound = false →
          (tally = none → halts g v) ∧
          ∀ group k, tally = some (group, k) → SoundGroup group u → halts g (tallied group k 1 v)

/-! ## Events that no telegram brings -/

/-- A transmit completion: a forwarded telegram is tallied passed with its octets, a gate-originated one nowhere, the transmitter
takes again; the completion of the answer that a pending RESTART waits for carries the restart out (R17, R112, R201). A wrong
check code of the group makes no tally and halts a SERVING gate (R116), before the transmitter takes again (the model's choice, log
entry 11). The event comes at the transmission's end at the earliest (the model's choice, log entry 2). -/
def Obligations.TransmitCompletion : Prop :=
  ∀ (w : Since) (p : Port) (s : State) (x : Transmission), (s.port p).sending = some x →
    let u := ((lapse w s).reach x.ends).onPort p fun q => { q with sending := none }
    (∀ y, x.item = .forwarded y → SoundGroup y.group u →
      ∃ t, exec (.transmitCompletion w p) s = .next t ∧
        TakesAgain p (tallied y.group .passedOctets (5 + y.telegram.payload.length) (tallied y.group .passed 1 u)) t) ∧
    (∀ y g, x.item = .forwarded y → y.group = some g → u.tallies[g].sound = false →
      ∃ m t, HaltsIfServing (.tallyStore g) u m ∧
        exec (.transmitCompletion w p) s = .next t ∧ TakesAgain p m t) ∧
    (∀ y, x.item = .own y → (y.restartAnswer = false ∨ s.slot.state ≠ .restarting) →
      ∃ t, exec (.transmitCompletion w p) s = .next t ∧ TakesAgain p u t) ∧
    (∀ y, x.item = .own y → y.restartAnswer = true → s.slot.state = .restarting →
      exec (.transmitCompletion w p) s = .next (restarted u))

/-- The line monitor (R11, R12, R17): a change of the signal begins the timing of an absence on an UP line or of a presence on a
DOWN one, and ends the timing of the opposite; a line return makes the line UP, and a free transmitter takes what waits. A gate
held in reset times nothing (log entry 14, the model's choice), and the clock of a line return stands at the end of the timed
presence at the earliest (log entry 2, the model's choice). -/
def Obligations.LineMonitor : Prop :=
  ∀ (w : Since) (p : Port) (present : Bool) (s : State),
    (s.inReset = false → (s.port p).signal ≠ present →
      exec (.signalChange w p present) s = .next ((lapse w s).onPort p fun q =>
        { q with signal := present,
                 timing := if ((s.port p).line = .up ↔ present = false) then some (s.now + w.elapsed) else none })) ∧
    (s.inReset = true → (s.port p).signal ≠ present →
      exec (.signalChange w p present) s = .next ((lapse w s).onPort p fun q => { q with signal := present, timing := none })) ∧
    ((s.port p).signal = present → exec (.signalChange w p present) s = .next (lapse w s)) ∧
    ∀ start, s.inReset = false → (s.port p).line = .down → (s.port p).timing = some start →
      let u := ((lapse w s).reach (start + 2 * 4000)).onPort p fun q => { q with line := .up, timing := none }
      (LinesOk s → exec (.lineReturn w p) s = .next u) ∧
      ((s.port p).sending = none → ∃ t, exec (.lineReturn w p) s = .next t ∧ TakesAgain p u t)

/-- A line loss: the port's queues, transmission, assembly, record and notice flag are gone and counted, every lost forwarded
telegram is tallied line lost, the PET is flushed with tallies and with lapse notices toward the surviving port, the ring is
empty, and a restart that waits on this port is carried out (R13, R62, R64, R157, R190, R201). A wrong check code found by a tally
or a read ends the tallies and the notices there and halts a SERVING gate after the other effects (R68, R116), before a restart is
carried out (log entry 12). A REPLY under TRACK whose frame ends at that port at the same moment, the loss taken first, and that
steps 2 to 5 let pass, is refused as unsolicited (R65; that no other frame there is decided is the model's choice, log entry 24).
The clock stands at the end of the timed absence at the earliest (the model's choice, log entry 2). -/
def Obligations.LineLoss : Prop :=
  ∀ (w : Since) (p : Port) (s : State) (start : Moment),
    s.inReset = false → (s.port p).line = .up → (s.port p).timing = some start →
    let u := (lapse w s).reach (start + 5 * 4000)
    let q := s.port p
    let lost := (match q.sending with | some { item := .forwarded x, .. } => [x] | _ => []) ++ q.forwardQ
    let own := (match q.sending with | some { item := .own _, .. } => 1 | _ => 0) + q.localQ.length
    let notices (xs : List PetEntry) (q' : PortState) : PortState :=
      (xs.filter fun x => x.notice && decide (x.port = p.other)).foldl (fun acc x =>
        acc.offer u.now (byteTime u.sampled.rts) .noticesDropped
          { dest := x.key.requester, source := u.station, kind := .note, mark := false, reach := u.settings.answerReach,
            tag := 0, payload := [0x02, x.key.responder, 0#2 ++ x.key.tag, 0#6 ++ x.used, 0#6 ++ x.timeoutClass] }) q'
    let after (tallies : Vector (Checked Counters) 32) (flushed : List PetEntry) : State :=
      (({ u with tallies := tallies, pet := [], ring := [] } : State).setPort p
        ((({ q with line := .down, timing := none, assembly := none,
                    lostFrame := q.assembly.map fun a => { frame := a, moment := u.now },
                    forwardQ := [], localQ := [], sending := none, lastAnswer := none, noticePending := false } : PortState).count .localItemsLost own).count
          .lineLossEvents 1)).onPort p.other (notices flushed)
    let counts (tallies : Vector (Checked Counters) 32) (removed : List Forwarded) (flushed : List PetEntry) : Prop :=
      ∀ g : Group, tallies[g] = raisedBy .flushed (carrying PetEntry.group g flushed)
        (raisedBy .lineLost (carrying Forwarded.group g removed) u.tallies[g])
    let ends (m : State) : Prop :=
      ((∀ r, s.slot = .restarting r → r.port ≠ p) → exec (.lineLoss w p) s = .next m) ∧
      (∀ r, s.slot = .restarting r → r.port = p → exec (.lineLoss w p) s = .next (restarted m))
    (SoundPet u → (∀ x ∈ lost, SoundGroup x.group u) → (∀ x ∈ s.pet, SoundGroup x.group u) →
      ∃ tallies, counts tallies lost s.pet ∧ ends (after tallies s.pet)) ∧
    (∀ before g, QueueFault lost before g u →
      ∃ tallies m, counts tallies before [] ∧ HaltsIfServing (.tallyStore g) (after tallies []) m ∧ ends m) ∧
    (∀ before fault, (∀ x ∈ lost, SoundGroup x.group u) → FlushFault s.pet before fault u →
      ∃ tallies m, counts tallies lost before ∧ HaltsIfServing fault (after tallies before) m ∧ ends m) ∧
    ∀ (m : State) (w' : Since) (rest : List Byte) (t : Telegram) (i : RuleIndex) (e : RuleEntry),
      exec (.lineLoss w p) s = .next m → FramedAtLoss w' p rest m t → ForClassifier m t →
      let v := received w' p m
      Treated v p t i e → e.action = .track → Clear p v → RateAllows e t v → SoundGroup e.group v →
      exec (.frameEnd w' p rest) m = .next (discarded p i e t .unsolicited v)

/-- A deadline expiry: the exchange leaves the PET, its key joins the Lapsed Ring, lapsed is tallied, and a lapse notice is offered
to the requester port when the exchange asks for one (R49, R58, R59). A wrong check code of the entry halts the gate instead; one of
its group leaves the removal and the key, makes no tally and no notice, and halts the gate (R68, R116). The clock stands at the
deadline at the earliest (the model's choice, log entry 2). -/
def Obligations.DeadlineExpiryLapses : Prop :=
  ∀ (w : Since) (s : State) (x : PetEntry), TrackerOk s → x ∈ s.pet →
    let u := (lapse w s).reach x.deadline
    let removed : State :=
      { u with pet := s.pet.filter fun y => decide (y.key ≠ x.key),
               ring := (if s.ring.length < 16 then s.ring else s.ring.drop 1) ++ [x.key] }
    let gone : State := tallied x.group .lapsed 1 removed
    (u.petSound[x.slot] = true → SoundGroup x.group u → x.notice = false →
      exec (.deadlineExpiry w x.key) s = .next gone) ∧
    (u.petSound[x.slot] = true → SoundGroup x.group u → x.notice = true →
      ∃ t, exec (.deadlineExpiry w x.key) s = .next t ∧ t = gone.setPort x.port (t.port x.port) ∧
        Placed u.now (byteTime u.sampled.rts) .noticesDropped
          { dest := x.key.requester, source := u.station, kind := .note, mark := false, reach := u.settings.answerReach,
            tag := 0, payload := [0x02, x.key.responder, 0#2 ++ x.key.tag, 0#6 ++ x.used, 0#6 ++ x.timeoutClass] }
          (s.port x.port) (t.port x.port)) ∧
    (u.petSound[x.slot] = false → s.gate = .serving →
      ∃ t, exec (.deadlineExpiry w x.key) s = .next t ∧ Halts (.exchangeStore x.slot) u t) ∧
    (∀ g, u.petSound[x.slot] = true → x.group = some g → u.tallies[g].sound = false → s.gate = .serving →
      ∃ t, exec (.deadlineExpiry w x.key) s = .next t ∧ Halts (.tallyStore g) removed t)

/-- A period expiry adds the refill amount up to the capacity and makes the next expiry fall one period later; nothing else changes
(R73, R74). The clock stands at the expiry's due moment at the earliest (the model's choice, log entry 2). -/
def Obligations.PeriodExpiryRefills : Prop :=
  ∀ (w : Since) (n : Fin 16) (s : State) (due : Moment),
    s.profiles[n].capacity ≠ 0 → s.profiles[n].nextExpiry = some due →
    let x := s.profiles[n]
    exec (.periodExpiry w n) s = .next { (lapse w s).reach due with
      profiles := s.profiles.set n { x with
        credits := if x.credits.toNat + x.amount.toNat ≤ x.capacity.toNat then x.credits + x.amount else x.capacity,
        nextExpiry := some (due + x.period.toNat * 4000) } }

/-- Validation finds the first in-use entry, in ascending index order, that fails one of the seven checks, and the first check it
fails; it passes a bank that has none (R91). -/
def Obligations.ValidationFindsTheFirstFailure : Prop :=
  ∀ (profiles : Vector Profile 16) (bank : RuleBank),
    let fails (e : RuleEntry) (r : Reason) : Prop :=
      match r with
      | .sourceRange => e.sourceHigh.toNat < e.sourceLow.toNat
      | .destRange => e.destHigh.toNat < e.destLow.toNat ∨ (e.destLow = 255 ∧ e.destHigh ≠ 255)
      | .noKind => e.kinds = 0
      | .noDirection => e.downward = false ∧ e.upward = false
      | .profileOnBlock => e.action = .block ∧ e.profile ≠ none
      | .undefinedProfile => ∃ n, e.profile = some n ∧ profiles[n].capacity = 0
      | .trackFields => e.action ≠ .track ∧ ¬(e.timeoutClass = 0 ∧ e.allowance = 0 ∧ e.notice = false)
    (∀ (r : Reason) (i : RuleIndex), bankFailure profiles bank = some (r, i) ↔
      bank[i].item.inUse = true ∧ fails bank[i].item r ∧
        (∀ r', (reasonNumber r').toNat < (reasonNumber r).toNat → ¬fails bank[i].item r') ∧
        ∀ j : RuleIndex, j < i → bank[j].item.inUse = true → ∀ r', ¬fails bank[j].item r') ∧
    (bankFailure profiles bank = none ↔ ∀ j : RuleIndex, bank[j].item.inUse = true → ∀ r', ¬fails bank[j].item r')

/-- The end of a validation that found a failure: the commit ends REFUSED with reason and index, and only the slot, the Outcome
Record and the commit's port change (R94, R99 to R101). -/
def Obligations.ValidationRefuses : Prop :=
  ∀ (w : Since) (s : State) (c : CommitContext) (r : Reason) (i : RuleIndex),
    s.slot = .validating c → c.failure = some (r, i) →
    ∃ t, exec (.validationComplete w) s = .next t ∧ Ended c .refused (reasonNumber r ++ byteOf i.val) s.gate (lapse w s) t

/-- The end of a validation that found no failure: the banks exchange roles, the generation rises, defined profiles are reset, the
HOLD option closes both directions with held tallies, the absence of KEEP flushes the PET with flushed tallies, and the commit
ends COMPLETED (R81, R95, R96, R99 to R101). A wrong check code found by a held tally or by the flush ends the tallies there; the
commit still ends COMPLETED, its completion answer showing HALTED, and the gate halts after it (R96). -/
def Obligations.ValidationCompletes : Prop :=
  ∀ (w : Since) (s : State) (c : CommitContext), s.slot = .validating c → c.failure = none →
    let u := lapse w s
    let removed := if c.hold then s.portF.forwardQ ++ s.portC.forwardQ else []
    let flushed := if c.keep then [] else s.pet
    let counts (tallies : Vector (Checked Counters) 32) (held : List Forwarded) (gone : List PetEntry) : Prop :=
      ∀ g : Group, tallies[g] = raisedBy .flushed (carrying PetEntry.group g gone)
        (raisedBy .held (carrying Forwarded.group g held) u.tallies[g])
    let after (tallies : Vector (Checked Counters) 32) : State :=
      { u with
        activeBank := s.activeBank.other, generation := s.generation + 1, tallies := tallies,
        profiles := s.profiles.map fun x =>
          if x.capacity = 0 then x
          else { x with credits := x.capacity, nextExpiry := some (u.now + x.period.toNat * 4000) },
        holdDown := c.hold || s.holdDown, holdUp := c.hold || s.holdUp,
        portC := { s.portC with forwardQ := if c.hold then [] else s.portC.forwardQ },
        portF := { s.portF with forwardQ := if c.hold then [] else s.portF.forwardQ },
        pet := if c.keep then s.pet else [], ring := if c.keep then s.ring else [] }
    let halts (fault : GateFault) (tallies : Vector (Checked Counters) 32) : Prop :=
      ∃ m t, exec (.validationComplete w) s = .next t ∧
        Ended c .completed (halfOfNat c.inUse) .halted (after tallies) m ∧ Halts fault m t
    ((∀ x ∈ removed, SoundGroup x.group u) → (∀ x ∈ flushed, u.petSound[x.slot] = true ∧ SoundGroup x.group u) →
      ∃ tallies t, counts tallies removed flushed ∧ exec (.validationComplete w) s = .next t ∧
        Ended c .completed (halfOfNat c.inUse) s.gate (after tallies) t) ∧
    (∀ before g, s.gate = .serving → QueueFault removed before g u →
      ∃ tallies, counts tallies before [] ∧ halts (.tallyStore g) tallies) ∧
    ∀ before fault, s.gate = .serving → (∀ x ∈ removed, SoundGroup x.group u) → FlushFault flushed before fault u →
      ∃ tallies, counts tallies removed before ∧ halts fault tallies

/-- Power-on begins STARTING with every block at its reset value and each line sampled; the 20 ms limit of a pending restart does so
with each line monitor as it stands (R11, R194, R195, R201, R202). Reset asserted leaves nothing of the gate's state, and the gate
is described as one at power-on that is held there and receives nothing (R202; that description is the model's choice, log entry
14; the clock at the 20 ms limit is the model's choice, log entry 2). -/
def Obligations.StartsAndReset : Prop :=
  ∀ (w : Since) (s : State),
    exec (.powerOn w) s = .next (poweredOn (lapse w s)) ∧
    (∀ r, s.slot = .restarting r → exec (.restartTimeLimit w) s = .next (restarted ((lapse w s).reach r.limit))) ∧
    exec (.resetAsserted w) s = .next { poweredOn (lapse w s) with inReset := true } ∧
    ∀ t, exec (.resetAsserted w) s = .next t → ∀ p, receiving p t = false

/-- The end of STARTING: SERVING when every stored item is sound and the station strap usable, HALTED with STRAP when only the strap
is unusable, and HALTED with the first wrong item in the order of R196 otherwise (R194, R196). How an item fails its read-back is
the model's choice (log entry 3). -/
def Obligations.StartingEnds : Prop :=
  ∀ (w : Since) (s : State), s.gate = .starting → s.inReset = false →
    let u := lapse w s
    let soundA := ∀ i : RuleIndex, u.bankA[i].sound = true
    let soundB := ∀ i : RuleIndex, u.bankB[i].sound = true
    let soundE := ∀ i : Fin 64, u.petSound[i] = true
    let soundT := ∀ g : Group, u.tallies[g].sound = true
    let usable := 1 ≤ s.sampled.stn.toNat ∧ s.sampled.stn.toNat ≤ 239
    let halts (f : GateFault) : Prop := ∃ t, exec (.startingEnd w) s = .next t ∧ Halts f u t
    (soundA → soundB → soundE → soundT → usable → exec (.startingEnd w) s = .next { u with gate := .serving }) ∧
    (soundA → soundB → soundE → soundT → ¬usable → halts (.strap s.sampled.stn)) ∧
    (∀ i : RuleIndex, (∀ j < i, u.bankA[j].sound = true) → u.bankA[i].sound = false → halts (.ruleStore .a i)) ∧
    (∀ i : RuleIndex, soundA → (∀ j < i, u.bankB[j].sound = true) → u.bankB[i].sound = false → halts (.ruleStore .b i)) ∧
    (∀ i : Fin 64, soundA → soundB → (∀ j < i, u.petSound[j] = true) → u.petSound[i] = false → halts (.exchangeStore i)) ∧
    (∀ g : Group, soundA → soundB → soundE → (∀ j < g, u.tallies[j].sound = true) → u.tallies[g].sound = false →
      halts (.tallyStore g))

/-! ## The Order Engine (chapter 8) -/

/-- The tests before an order's execution, in their order, for every order: field access NONE at Port F discards it, a repeat gets
the stored answer, a HALTED gate answers HALTED, missing rights DENIED, a slot that does not serve it BUSY (R143 to R149). -/
def Obligations.OrderTestsInTheirOrder : Prop :=
  ∀ (k : OrderCode) (w : Since) (p : Port) (h : OrderHead) (args : List Byte) (s : State), Heard p h s →
    let c := orderInstr k w p h args
    let u := arrived w p s
    let admittedAtF := s.settings.access = .full ∨ k.cls args = .inquiry ∨ k.cls args = .word
    let served := s.slot = .idle ∨ (s.slot.state = .validating ∧ k.cls args ≠ .change) ∨
      (s.slot.state = .restarting ∧ k = .status)
    (p = .f → s.settings.access = .closed →
      exec c s = .next ((lapse w s).onPort .f fun q =>
        { (q.count .goodReceived 1).count .ordersRefused 1 with assembly := none })) ∧
    (p = .c ∨ s.settings.access ≠ .closed →
      (∀ x, (s.port p).lastAnswer = some x → x.requester = h.source → x.tag = h.tag →
        ∃ t, exec c s = .next t ∧ Resent p h x.answer (u.onPort p fun q => q.count .repeatsAnswered 1) t) ∧
      (NotRepeat p h s → s.gate = .halted → k ≠ .status → k ≠ .restart → Answers c s p h k.byte .halted 0 [] false u) ∧
      (NotRepeat p h s → (s.gate = .serving ∨ k = .status ∨ k = .restart) → p = .f → ¬admittedAtF →
        Answers c s p h k.byte .denied 0 [] true u) ∧
      (NotRepeat p h s → (s.gate = .serving ∨ k = .status ∨ k = .restart) → (p = .c ∨ admittedAtF) → ¬served →
        Answers c s p h k.byte .busy 0 [] false u))

/-- R147: an order whose code belongs to no order is answered UNKNOWN_ORDER with its code, or 0 for an empty payload, whatever its
parameters; the answer is stored, a repeat of its tag gets it again, and nothing outside the Order Engine and the arrival port
changes. The tests before it come first: at Port F under field access NONE the order is discarded and counted, and a HALTED gate
answers HALTED without storing. FrameEndDeliversAnOrder says the same of an unknown order that comes as a frame end. -/
def Obligations.UnknownOrderIsAnswered : Prop :=
  ∀ (w : Since) (p : Port) (h : OrderHead) (payload : List Byte) (s : State),
    Heard p h s → payload.head?.any orderCodeAssigned = false →
    let letIn : Prop := p = .c ∨ s.settings.access ≠ .closed
    let c : Instr := .unknownOrder w p h payload
    (s.gate = .serving → letIn → NotRepeat p h s →
      Answers c s p h (payload.headD 0) .unknownOrder 0 [] true (arrived w p s)) ∧
    (∀ a : Answer, letIn → (s.port p).lastAnswer = some { requester := h.source, tag := h.tag, answer := a } →
      ∃ t, exec c s = .next t ∧ Resent p h a ((arrived w p s).onPort p fun q => q.count .repeatsAnswered 1) t) ∧
    (s.gate = .halted → letIn → NotRepeat p h s →
      Answers c s p h (payload.headD 0) .halted 0 [] false (arrived w p s)) ∧
    (p = .f → s.settings.access = .closed →
      exec c s = .next ((lapse w s).onPort .f fun q =>
        { (q.count .goodReceived 1).count .ordersRefused 1 with assembly := none }))

/-- An order whose parameters have a fixed sequence is answered BAD_PARAM at the position of its first fault: a missing byte, a value
out of range or a surplus byte; an order that carries a list is so at position 1 when no byte follows its code. The answer is stored
and nothing else changes (R150, R163, R164, R166, R169 to R183). -/
def Obligations.BadParamAtTheFirstFault : Prop :=
  ∀ (k : OrderCode) (w : Since) (p : Port) (h : OrderHead) (args : List Byte) (s : State),
    Heard p h s → Admitted k args p h s →
    let faults (pos : Nat) : Prop :=
      Answers (orderInstr k w p h args) s p h k.byte .badParam (halfOfNat pos) [] true (arrived w p s)
    (∀ xs pos, parametersOf k = some xs → firstFault [] xs args = some pos → faults pos) ∧
    (parametersOf k = none → args = [] → faults 1)

/-- STATUS reports the 22 bytes of the status contents and changes nothing but the port it came in on; its answer is not stored
(R164, R165, R206). -/
def Obligations.StatusReports : Prop :=
  ∀ (w : Since) (p : Port) (h : OrderHead) (s : State), Heard p h s → Admitted .status [] p h s →
    let u := arrived w p s
    ∃ held : GroupSet, (∀ g : Group, held.getLsbD g.val = (u.snapshots[g]).isSome) ∧
      Answers (.status w p h []) s p h 0x01 .done 0
        ([(if s.gate = .halted then 2 else 1),
          (match s.fault with
            | none => 0 | some (.strap _) => 1 | some (.ruleStore _ _) => 2 | some (.exchangeStore _) => 3
            | some (.tallyStore _) => 4),
          (match s.fault with
            | none => 0 | some (.strap v) => v | some (.ruleStore which _) => (match which with | .a => 0 | .b => 1)
            | some (.exchangeStore i) => byteOf i.val | some (.tallyStore g) => byteOf g.val),
          (match s.fault with | some (.ruleStore _ i) => byteOf i.val | _ => 0),
          s.station,
          byteOf ((if s.holdDown then 1 else 0) + (if s.holdUp then 2 else 0) + (if s.portC.line = .up then 4 else 0) +
            (if s.portF.line = .up then 8 else 0) +
            (match s.slot with | .idle => 0 | .validating _ => 16 | .restarting _ => 32))] ++
          (match s.outcome with
            | none => [0, 0, 0, 0, 0, 0, 0]
            | some x => [0x08, x.requester, (match x.port with | .c => 0 | .f => 1), 0#2 ++ x.tag,
                (match x.result with | .completed => 1 | .refused => 2 | .abandoned => 3 | .faulted => 4),
                x.detail.extractLsb' 8 8, x.detail.extractLsb' 0 8]) ++
          [byteOf s.pet.length, byteOf s.ring.length, byteOf s.captures.length,
           held.extractLsb' 24 8, held.extractLsb' 16 8, held.extractLsb' 8 8, held.extractLsb' 0 8,
           s.generation.extractLsb' 8 8, s.generation.extractLsb' 0 8])
        false u

/-- CONFIG_READ returns the seventeen bytes of the settings (R166, R206). CONFIG_WRITE with any mask of the thirteen fields writes
the fields it names with the values it carries and leaves the others as they stand; it is answered DONE with the number of fields
written (R162, R167). A missing mask byte, a mask bit that names no field, a missing byte of a named field, a named field's value
out of range and a surplus byte are each answered BAD_PARAM at their positions, and nothing is written (R163, R167). -/
def Obligations.SettingsAreReadAndWritten : Prop :=
  ∀ (w : Since) (p : Port) (h : OrderHead) (s : State), Heard p h s →
    let u := arrived w p s
    let faults (args : List Byte) (pos : Nat) : Prop := Admitted .configWrite args p h s →
      Answers (.configWrite w p h args) s p h 0x03 .badParam (halfOfNat pos) [] true u
    (Admitted .configRead [] p h s →
      Answers (.configRead w p h []) s p h 0x02 .done 0 (settingsBytes s.settings) true u) ∧
    (∀ (mask : Half) (x : Settings), mask.toNat < 8192 → SettingsOk { s with settings := x } →
      let args := halfBytes mask ++ namedBytes mask 13 x
      (Admitted .configWrite args p h s →
        Answers (.configWrite w p h args) s p h 0x03 .done
          (halfOfNat ((List.finRange 13).countP fun k => mask.getLsbD k.val)) [] true
          { u with settings := chosenFields mask x s.settings }) ∧
      (∀ y rest, faults (args ++ y :: rest) (args.length + 1)) ∧
      ∀ k : Fin 13, mask.getLsbD k.val = true →
        let before := halfBytes mask ++ namedBytes mask k.val x
        (∀ short, short.length < (fieldBytes x k).length → faults (before ++ short) (before.length + short.length + 1)) ∧
        ∀ bad rest, FieldOutOfRange k bad → faults (before ++ bad ++ rest) (before.length + 1)) ∧
    faults [] 1 ∧ (∀ hi, faults [hi] 2) ∧ ∀ hi lo rest, 32 ≤ hi.toNat → faults (hi :: lo :: rest) 1

/-- RULES_READ returns the bank's identity and its entries as stored; a wrong check code among those read halts the gate instead,
without an answer (R169, R28, R156). -/
def Obligations.RulesReadReturnsTheEntries : Prop :=
  ∀ (w : Since) (p : Port) (h : OrderHead) (s : State) (staging : Bool) (first count : Nat),
    let args := [if staging then 1 else 0, byteOf first, byteOf count]
    Heard p h s → Admitted .rulesRead args p h s → 1 ≤ count → count ≤ 16 → first + count ≤ 128 →
    let u := arrived w p s
    let which := if staging then s.activeBank.other else s.activeBank
    let bank := u.bank which
    ((∀ j : RuleIndex, first ≤ j.val → j.val < first + count → bank[j].sound = true) →
      Answers (.rulesRead w p h args) s p h 0x04 .done (halfOfNat count)
        ((match which with | .a => 0 | .b => 1) ::
          ((bank.toList.drop first).take count).flatMap fun x => x.item.encode) true u) ∧
    (∀ i : RuleIndex, s.gate = .serving → first ≤ i.val → i.val < first + count →
      (∀ j : RuleIndex, first ≤ j.val → j < i → bank[j].sound = true) → bank[i].sound = false →
      ∃ t, exec (.rulesRead w p h args) s = .next t ∧ Halts (.ruleStore which i) u t)

/-- STAGE_WRITE replaces the addressed Staging entries whole, with fresh check codes, and no others (R85 to R87, R170). It is
answered BAD_PARAM, and writes nothing, at position 1 for a start index absent or above 127, at position 2 for no entry, and, after
`n` entries in range, at the first byte of an entry that is a seventeenth, stands beyond index 127 or is incomplete, or at the first
byte out of range of a whole one (R86, R170). -/
def Obligations.StageWriteReplacesEntries : Prop :=
  ∀ (w : Since) (p : Port) (h : OrderHead) (s : State), Heard p h s →
    let u := arrived w p s
    let faults (args : List Byte) (pos : Nat) : Prop := Admitted .stageWrite args p h s →
      Answers (.stageWrite w p h args) s p h 0x05 .badParam (halfOfNat pos) [] true u
    faults [] 1 ∧ (∀ start rest, 128 ≤ start.toNat → faults (start :: rest) 1) ∧
    (∀ start, start.toNat < 128 → faults [start] 2) ∧
    ∀ (first : Nat) (es : List RuleEntry), (∀ e ∈ es, EntryOk e) → es.length ≤ 16 → first + es.length ≤ 128 → first < 128 →
      let args := byteOf first :: es.flatMap RuleEntry.encode
      (1 ≤ es.length → Admitted .stageWrite args p h s →
        ∃ bank : RuleBank,
          (∀ i : RuleIndex, (i.val < first ∨ first + es.length ≤ i.val → bank[i] = (u.bank u.stagingBank)[i]) ∧
            ∀ e, first ≤ i.val → es[i.val - first]? = some e → bank[i] = Checked.fresh e) ∧
          Answers (.stageWrite w p h args) s p h 0x05 .done (halfOfNat es.length) [] true (u.setBank u.stagingBank bank)) ∧
      (∀ rest, rest ≠ [] → es.length = 16 ∨ first + es.length = 128 ∨ rest.length < 9 →
        faults (args ++ rest) (9 * es.length + 2)) ∧
      ∀ entry rest off, es.length < 16 → first + es.length < 128 → entry.length = 9 →
        (∃ x, entry[off]? = some x ∧ ¬EntryByteOk off x) → (∀ j < off, ∀ x, entry[j]? = some x → EntryByteOk j x) →
        faults (args ++ entry ++ rest) (9 * es.length + 2 + off)

/-- STAGE_CLEAR sets every Staging entry to its value of R21; STAGE_CLONE copies the Active entries into it and stops at the first
whose check code is wrong, which halts the gate (R88, R89, R170). -/
def Obligations.StageClearAndClone : Prop :=
  ∀ (w : Since) (p : Port) (h : OrderHead) (s : State), Heard p h s →
    let u := arrived w p s
    let active := u.bank u.activeBank
    let old := u.bank u.stagingBank
    (Admitted .stageClear [] p h s → ∃ bank : RuleBank, (∀ i : RuleIndex, bank[i] = Checked.fresh RuleEntry.reset) ∧
      Answers (.stageClear w p h []) s p h 0x06 .done 0 [] true (u.setBank u.stagingBank bank)) ∧
    (Admitted .stageClone [] p h s → (∀ i : RuleIndex, active[i].sound = true) →
      ∃ bank : RuleBank, (∀ i : RuleIndex, bank[i] = Checked.fresh active[i].item) ∧
        Answers (.stageClone w p h []) s p h 0x07 .done (halfOfNat (active.toList.countP fun x => x.item.inUse)) [] true
          (u.setBank u.stagingBank bank)) ∧
    (Admitted .stageClone [] p h s → ∀ i : RuleIndex, (∀ j < i, active[j].sound = true) → active[i].sound = false →
      ∃ (bank : RuleBank) (t : State),
        (∀ j : RuleIndex, bank[j] = if j < i then Checked.fresh active[j].item else old[j]) ∧
        exec (.stageClone w p h []) s = .next t ∧
        Halts (.ruleStore u.activeBank i) (u.setBank u.stagingBank bank) t)

/-- COMMIT with the slot IDLE is taken: VALIDATING, the context recorded, ACCEPTED with the number of in-use Staging entries; a
wrong check code found by validation's reading ends it FAULTED at the halt, without that answer (R90, R93, R105, R155). The
context also keeps validation's result for its end (log entry 21, DEDUCED from R92 and R93). -/
def Obligations.CommitIsTaken : Prop :=
  ∀ (w : Since) (p : Port) (h : OrderHead) (s : State) (hold keep : Bool),
    let args := [byteOf ((if hold then 1 else 0) + (if keep then 2 else 0))]
    Heard p h s → Admitted .commit args p h s →
    let u := arrived w p s
    let bank := u.bank u.stagingBank
    let n := bank.toList.countP fun x => x.item.inUse
    let v : State := { u with slot := .validating { requester := h.source, port := p, tag := h.tag, hold := hold, keep := keep,
                                                    inUse := n, failure := bankFailure s.profiles bank } }
    ((∀ i : RuleIndex, bank[i].sound = true) →
      Answers (.commit w p h args) s p h 0x08 .accepted (halfOfNat n) [] true v) ∧
    (∀ i : RuleIndex, (∀ j < i, bank[j].sound = true) → bank[i].sound = false →
      ∃ t, exec (.commit w p h args) s = .next t ∧ Halts (.ruleStore u.stagingBank i) v t)

/-- ABANDON ends the commit in flight ABANDONED, its completion answer first and the DONE answer after it; with the slot IDLE it is
answered NOT_BUSY and changes nothing (R102, R103). -/
def Obligations.AbandonEndsTheCommit : Prop :=
  ∀ (w : Since) (p : Port) (h : OrderHead) (s : State), Heard p h s → Admitted .abandon [] p h s →
    let u := arrived w p s
    (s.slot = .idle → Answers (.abandon w p h []) s p h 0x09 .notBusy 0 [] true u) ∧
    (∀ c, s.slot = .validating c →
      ∃ m, Ended c .abandoned 0 s.gate u m ∧ Answers (.abandon w p h []) s p h 0x09 .done 0 [] true m)

/-- HOLD sets the named flags and empties their Forward Queues with held tallies, answering how many telegrams it removed; RELEASE
clears the named flags (R108, R109, R172). A held tally that finds a wrong check code ends the tallies there, and the order ends
without an answer at the halt, with every telegram removed (R116, R156). -/
def Obligations.HoldAndRelease : Prop :=
  ∀ (w : Since) (p : Port) (h : OrderHead) (s : State) (down up : Bool), down = true ∨ up = true →
    let args := [byteOf ((if down then 1 else 0) + (if up then 2 else 0))]
    Heard p h s →
    let u := arrived w p s
    let removed := (if down then s.portF.forwardQ else []) ++ (if up then s.portC.forwardQ else [])
    let counts (tallies : Vector (Checked Counters) 32) (held : List Forwarded) : Prop :=
      ∀ g : Group, tallies[g] = raisedBy .held (carrying Forwarded.group g held) u.tallies[g]
    let after (tallies : Vector (Checked Counters) 32) : State :=
      { u with
        tallies := tallies, holdDown := down || s.holdDown, holdUp := up || s.holdUp,
        portF := { u.portF with forwardQ := if down then [] else s.portF.forwardQ },
        portC := { u.portC with forwardQ := if up then [] else s.portC.forwardQ } }
    (Admitted .hold args p h s → (∀ x ∈ removed, SoundGroup x.group u) →
      ∃ tallies, counts tallies removed ∧
        Answers (.hold w p h args) s p h 0x0A .done (halfOfNat removed.length) [] true (after tallies)) ∧
    (∀ before g, Admitted .hold args p h s → QueueFault removed before g u →
      ∃ tallies t, counts tallies before ∧ exec (.hold w p h args) s = .next t ∧ Halts (.tallyStore g) (after tallies) t) ∧
    (Admitted .release args p h s →
      Answers (.release w p h args) s p h 0x0B .done 0 [] true
        { u with holdDown := !down && s.holdDown, holdUp := !up && s.holdUp })

/-- PROFILE_READ returns six bytes for each profile of the span (R173, R206). PROFILE_WRITE sets the four fields and full credits
and starts the period; capacity 0 is refused IN_USE with the first in-use Active entry that names the profile, and a wrong check
code below it halts the gate (R79, R80, R174). -/
def Obligations.ProfilesAreReadAndWritten : Prop :=
  ∀ (w : Since) (p : Port) (h : OrderHead) (s : State), Heard p h s →
    let u := arrived w p s
    (∀ first count : Nat, 1 ≤ count → first + count ≤ 16 → Admitted .profileRead [byteOf first, byteOf count] p h s →
      Answers (.profileRead w p h [byteOf first, byteOf count]) s p h 0x0C .done (halfOfNat count)
        (((s.profiles.toList.drop first).take count).flatMap fun x =>
          [x.capacity, x.amount, x.period.extractLsb' 8 8, x.period.extractLsb' 0 8,
           (match x.mode with | .perTelegram => 0 | .perSize => 1), x.credits]) true u) ∧
    ∀ (n : Fin 16) (capacity amount : Byte) (period : Half) (mode : CostMode),
      amount ≠ 0 → period ≠ 0 → period.toNat ≤ 1000 →
      let args := [byteOf n.val, capacity, amount, period.extractLsb' 8 8, period.extractLsb' 0 8,
        (match mode with | .perTelegram => 0 | .perSize => 1)]
      let bank := u.bank u.activeBank
      let names (i : RuleIndex) : Prop := bank[i].item.inUse = true ∧ bank[i].item.profile = some n
      Admitted .profileWrite args p h s →
      (capacity ≠ 0 ∨ (∀ i : RuleIndex, bank[i].sound = true ∧ ¬names i) →
        Answers (.profileWrite w p h args) s p h 0x0D .done 0 [] true
          { u with
            profiles := s.profiles.set n
              { capacity := capacity, amount := amount, period := period, mode := mode, credits := capacity,
                nextExpiry := if capacity = 0 then none else some (s.now + w.elapsed + period.toNat * 4000) } }) ∧
      (∀ i : RuleIndex, capacity = 0 → (∀ j < i, bank[j].sound = true ∧ ¬names j) → bank[i].sound = true → names i →
        Answers (.profileWrite w p h args) s p h 0x0D .inUse (halfOfNat i.val) [] true u) ∧
      (∀ i : RuleIndex, capacity = 0 → (∀ j < i, bank[j].sound = true ∧ ¬names j) → bank[i].sound = false →
        ∃ t, exec (.profileWrite w p h args) s = .next t ∧ Halts (.ruleStore u.activeBank i) u t)

/-- EXCHANGE_LIST returns the total and up to twelve records from the skip count on, each with the milliseconds to its deadline
rounded up, at least 1; a wrong check code among them halts the gate (R48, R67, R68, R175). -/
def Obligations.ExchangesAreListed : Prop :=
  ∀ (w : Since) (p : Port) (h : OrderHead) (s : State) (skip : Byte), Heard p h s → Admitted .exchangeList [skip] p h s →
    let u := arrived w p s
    let page := (s.pet.drop skip.toNat).take 12
    ((∀ x ∈ page, u.petSound[x.slot] = true) →
      ∃ left : PetEntry → Half,
        (∀ x, x.deadline ≤ u.now → left x = 1) ∧
        (∀ x, u.now < x.deadline → x.deadline ≤ u.now + 65535 * 4000 →
          u.now + ((left x).toNat - 1) * 4000 < x.deadline ∧ x.deadline ≤ u.now + (left x).toNat * 4000) ∧
        (∀ x, u.now + 65535 * 4000 < x.deadline → left x = 65535) ∧
        Answers (.exchangeList w p h [skip]) s p h 0x0E .done (halfOfNat page.length)
          (byteOf s.pet.length :: page.flatMap fun x =>
            [x.key.requester, x.key.responder, 0#2 ++ x.key.tag, (match x.port with | .c => 0 | .f => 1), byteOf x.rule.val,
             (match x.group with | none => 0xFF | some g => byteOf g.val), 0#6 ++ x.timeoutClass, 0#6 ++ x.used,
             x.number.extractLsb' 8 8, x.number.extractLsb' 0 8, (left x).extractLsb' 8 8, (left x).extractLsb' 0 8])
          true u) ∧
    (∀ before x after, s.gate = .serving → page = before ++ x :: after → (∀ y ∈ before, u.petSound[y.slot] = true) →
      u.petSound[x.slot] = false →
      ∃ t, exec (.exchangeList w p h [skip]) s = .next t ∧ Halts (.exchangeStore x.slot) u t)

/-- EXCHANGE_FLUSH empties the PET with flushed tallies and no notices, and the Lapsed Ring, answering how many entries it removed
(R62, R63, R176). A wrong check code of an entry or of its group ends the tallies there, and the order ends without an answer at the
halt (R68, R116, R156). -/
def Obligations.ExchangeFlushEmptiesTheTracker : Prop :=
  ∀ (w : Since) (p : Port) (h : OrderHead) (s : State), Heard p h s → Admitted .exchangeFlush [] p h s →
    let u := arrived w p s
    let counts (tallies : Vector (Checked Counters) 32) (flushed : List PetEntry) : Prop :=
      ∀ g : Group, tallies[g] = raisedBy .flushed (carrying PetEntry.group g flushed) u.tallies[g]
    (SoundPet u → (∀ x ∈ s.pet, SoundGroup x.group u) →
      ∃ tallies, counts tallies s.pet ∧
        Answers (.exchangeFlush w p h []) s p h 0x0F .done (halfOfNat s.pet.length) [] true
          { u with tallies := tallies, pet := [], ring := [] }) ∧
    ∀ before fault, FlushFault s.pet before fault u →
      ∃ tallies t, counts tallies before ∧ exec (.exchangeFlush w p h []) s = .next t ∧
        Halts fault { u with tallies := tallies, pet := [], ring := [] } t

/-- SNAPSHOT captures every named group whose slot is EMPTY, skips the HELD ones, clears what it captured when asked, and numbers an
order that captured; its answer carries the two sets and the number (R118 to R121, R177). A group whose check code is wrong ends the
captures below it: those made stand, and the order ends without an answer at the halt (R116, R156); it counts in the capture sequence
counter if it had captured (the model's inference, log entry 22). -/
def Obligations.SnapshotCaptures : Prop :=
  ∀ (w : Since) (p : Port) (h : OrderHead) (s : State) (set : GroupSet) (clear : Bool),
    let args := countBytes set ++ [if clear then 1 else 0]
    Heard p h s → Admitted .snapshot args p h s →
    let u := arrived w p s
    let takes (g : Group) : Prop := set.getLsbD g.val = true ∧ u.snapshots[g] = none
    let captures (done : Group → Prop) (v : State) : Prop :=
      ∃ (number : Half) (snapshots : Vector (Option Snapshot) 32) (tallies : Vector (Checked Counters) 32),
        ((∃ g, done g) → number = s.captureSeq + 1) ∧ ((∀ g, ¬done g) → number = s.captureSeq) ∧
        (∀ g : Group,
          (done g → snapshots[g] = some
            { counters := u.tallies[g].item, saturated := decide (∃ k : Fin 18, u.tallies[g].item[k] = 4294967295),
              generation := BitVec.ofNat 10 (s.generation.toNat % 1024), sequence := number, sound := true } ∧
            tallies[g] = if clear then Checked.fresh (Vector.replicate 18 0) else u.tallies[g]) ∧
          (¬done g → snapshots[g] = u.snapshots[g] ∧ tallies[g] = u.tallies[g])) ∧
        v = { u with snapshots := snapshots, tallies := tallies, captureSeq := number }
    ((∀ g : Group, takes g → u.tallies[g].sound = true) →
      ∃ (v : State) (captured skipped : GroupSet), captures takes v ∧
        (∀ g : Group, (captured.getLsbD g.val = true ↔ takes g) ∧
          (skipped.getLsbD g.val = true ↔ set.getLsbD g.val = true ∧ ¬takes g)) ∧
        Answers (.snapshot w p h args) s p h 0x10 .done v.captureSeq (countBytes captured ++ countBytes skipped) true v) ∧
    ∀ g : Group, takes g → u.tallies[g].sound = false → (∀ j < g, takes j → u.tallies[j].sound = true) →
      ∃ v t, captures (fun j => takes j ∧ j < g) v ∧ exec (.snapshot w p h args) s = .next t ∧ Halts (.tallyStore g) v t

/-- SNAPSHOT_READ reads out the first three HELD slots of its set and sets them EMPTY; its answer carries the set of the slots still
HELD and the records (R123, R124, R177). A slot whose check code is wrong stays HELD with those after it, and the order ends without
an answer at the halt (R117, R156). -/
def Obligations.SnapshotReadEmptiesSlots : Prop :=
  ∀ (w : Since) (p : Port) (h : OrderHead) (s : State) (set : GroupSet), Heard p h s →
    Admitted .snapshotRead (countBytes set) p h s →
    let u := arrived w p s
    let chosen := ((List.finRange 32).filter fun g => set.getLsbD g.val && (u.snapshots[g]).isSome).take 3
    let sound (g : Group) : Prop := ∀ x, u.snapshots[g] = some x → x.sound = true
    let emptied (read : List Group) (snapshots : Vector (Option Snapshot) 32) : Prop :=
      ∀ g : Group, snapshots[g] = if g ∈ read then none else u.snapshots[g]
    ((∀ g ∈ chosen, sound g) →
      ∃ (snapshots : Vector (Option Snapshot) 32) (remaining : GroupSet), emptied chosen snapshots ∧
        (∀ g : Group, remaining.getLsbD g.val = (snapshots[g]).isSome) ∧
        Answers (.snapshotRead w p h (countBytes set)) s p h 0x11 .done (halfOfNat chosen.length)
          (countBytes remaining ++ chosen.flatMap fun g =>
            match u.snapshots[g] with
            | none => []
            | some x =>
              let head : BitVec 16 := BitVec.ofBool x.saturated ++ BitVec.ofNat 5 g.val ++ x.generation
              [head.extractLsb' 8 8, head.extractLsb' 0 8, x.sequence.extractLsb' 8 8, x.sequence.extractLsb' 0 8] ++
                x.counters.toList.flatMap countBytes)
          true { u with snapshots := snapshots }) ∧
    ∀ before g after x, chosen = before ++ g :: after → (∀ j ∈ before, sound j) → u.snapshots[g] = some x → x.sound = false →
      ∃ snapshots t, emptied before snapshots ∧ exec (.snapshotRead w p h (countBytes set)) s = .next t ∧
        Halts (.tallyStore g) { u with snapshots := snapshots } t

/-- TALLY_CLEAR zeroes the live counters of the groups of its set, with fresh check codes, and touches nothing else (R128, R177). -/
def Obligations.TallyClearZeroes : Prop :=
  ∀ (w : Since) (p : Port) (h : OrderHead) (s : State) (set : GroupSet), Heard p h s →
    Admitted .tallyClear (countBytes set) p h s →
    let u := arrived w p s
    ∃ tallies : Vector (Checked Counters) 32,
      (∀ g : Group, tallies[g] =
        if set.getLsbD g.val then Checked.fresh (Vector.replicate 18 0) else u.tallies[g]) ∧
      Answers (.tallyClear w p h (countBytes set)) s p h 0x12 .done 0 [] true { u with tallies := tallies }

/-- PORT_COUNTERS returns the thirteen counters of each selected port, this order's own counts included, and with the clear option
zeroes those it returned (R178, R179). -/
def Obligations.PortCountersAreReadAndCleared : Prop :=
  ∀ (w : Since) (p : Port) (h : OrderHead) (s : State) (atC atF clear : Bool), atC = true ∨ atF = true →
    let args := [byteOf ((if atC then 1 else 0) + (if atF then 2 else 0)), if clear then 1 else 0]
    Heard p h s → Admitted .portCounters args p h s →
    let u := arrived w p s
    Answers (.portCounters w p h args) s p h 0x13 .done 0
      ((if atC then u.portC.counters.toList.flatMap countBytes else []) ++
        (if atF then u.portF.counters.toList.flatMap countBytes else []))
      true
      { u with
        portC := { u.portC with counters := if clear && atC then Vector.replicate 13 0 else u.portC.counters },
        portF := { u.portF with counters := if clear && atF then Vector.replicate 13 0 else u.portF.counters } }

/-- CAPTURE_READ returns the overflow count and the oldest record, removes that record and zeroes the count (R137, R180, R207). -/
def Obligations.CaptureReadTakesTheOldest : Prop :=
  ∀ (w : Since) (p : Port) (h : OrderHead) (s : State), Heard p h s → Admitted .captureRead [] p h s →
    let u := arrived w p s
    (s.captures = [] →
      Answers (.captureRead w p h []) s p h 0x14 .done 0 (halfBytes s.overflow) true { u with overflow := 0 }) ∧
    (∀ x xs, s.captures = x :: xs →
      Answers (.captureRead w p h []) s p h 0x14 .done (halfOfNat xs.length)
        (halfBytes s.overflow ++
          [BitVec.ofBool (decide (x.port = .f)) ++ BitVec.ofBool x.truncated ++ 0#2 ++ outcomeCode x.outcome, byteOf x.rule.val,
           x.generation.extractLsb' 8 8, x.generation.extractLsb' 0 8, x.dest, x.source,
           kindCode x.kind ++ BitVec.ofBool x.mark ++ x.reach, 0#2 ++ x.tag, x.payloadLength] ++ x.kept)
        true { u with captures := xs, overflow := 0 })

/-- R139: CAPTURE_CLEAR removes every record, zeroes the overflow count and is answered DONE with the number removed and no data;
the answer is stored, and a repeat of its tag gets it again and clears nothing. -/
def Obligations.CaptureClearEmptiesTheQueue : Prop :=
  ∀ (w : Since) (p : Port) (h : OrderHead) (s : State), Heard p h s → Admitted .captureClear [] p h s →
    Answers (.captureClear w p h []) s p h 0x15 .done (halfOfNat s.captures.length) [] true
      { arrived w p s with captures := [], overflow := 0 } ∧
    ∀ (w' : Since) (v : State) (a : Answer), Heard p h v → (p = .c ∨ v.settings.access ≠ .closed) →
      (v.port p).lastAnswer = some { requester := h.source, tag := h.tag, answer := a } →
      ∃ t, exec (.captureClear w' p h []) v = .next t ∧
        Resent p h a ((arrived w' p v).onPort p fun q => q.count .repeatsAnswered 1) t

/-- WORD_READ returns the words of its span; a read that includes the notice word of the other side clears the flag toward the
reader, and no other read changes a flag (R181, R186). -/
def Obligations.WordReadReturnsTheWords : Prop :=
  ∀ (w : Since) (p : Port) (h : OrderHead) (s : State) (first count : Nat),
    let args := [byteOf first, byteOf count]
    Heard p h s → Admitted .wordRead args p h s → 1 ≤ count → first + count ≤ 16 →
    let u := arrived w p s
    let acknowledges := match p with
      | .f => first = 0
      | .c => first ≤ 8 ∧ 8 < first + count
    let answer (v : State) : Prop :=
      Answers (.wordRead w p h args) s p h 0x16 .done (halfOfNat count)
        (((s.words.toList.drop first).take count).flatMap halfBytes) true v
    (acknowledges → answer (u.onPort p fun q => { q with noticePending := false })) ∧ (¬acknowledges → answer u)

/-- WORD_WRITE on the other side's words is DENIED; on the writer's own it writes them in place, and a write of the notice word
places a notice toward the other side unless one is pending, no station is set, the line is DOWN or the queue is full (R182, R187
to R189). A start index absent or above 15, no word, an odd number of word bytes and a word beyond index 15 are each answered
BAD_PARAM at their positions, in this sequence (R150, R182; log entry 13), and nothing is written. -/
def Obligations.WordWriteWritesAndNotifies : Prop :=
  ∀ (w : Since) (p : Port) (h : OrderHead) (s : State), Heard p h s →
  let u := arrived w p s
  let faults (args : List Byte) (pos : Nat) : Prop := Admitted .wordWrite args p h s →
    Answers (.wordWrite w p h args) s p h 0x17 .badParam (halfOfNat pos) [] true u
  (faults [] 1 ∧ (∀ start rest, 16 ≤ start.toNat → faults (start :: rest) 1) ∧
    ∀ start rest, start.toNat < 16 →
      (rest = [] → faults (start :: rest) 2) ∧
      (rest.length % 2 = 1 → faults (start :: rest) (rest.length + 2)) ∧
      (rest ≠ [] → rest.length % 2 = 0 → 16 < start.toNat + rest.length / 2 →
        faults (start :: rest) (2 + 2 * (16 - start.toNat)))) ∧
  ∀ (first : Nat) (xs : List Half),
    let args := byteOf first :: xs.flatMap halfBytes
    Admitted .wordWrite args p h s → xs ≠ [] → first + xs.length ≤ 16 →
    let own := match p with
      | .c => first + xs.length ≤ 8
      | .f => 8 ≤ first
    let notice := match p with
      | .c => first = 0
      | .f => first = 8
    (¬own → Answers (.wordWrite w p h args) s p h 0x17 .denied 0 [] true u) ∧
    (own → ∃ words : Vector Half 16,
      (∀ i : Fin 16, (i.val < first ∨ first + xs.length ≤ i.val → words[i] = s.words[i]) ∧
        ∀ x, first ≤ i.val → xs[i.val - first]? = some x → words[i] = x) ∧
      let written := { u with words := words }
      let toward := s.port p.other
      let answer (v : State) : Prop := Answers (.wordWrite w p h args) s p h 0x17 .done (halfOfNat xs.length) [] true v
      (¬notice ∨ toward.noticePending = true ∨ s.settings.noticeStation p.other = none ∨ toward.line = .down → answer written) ∧
      (∀ station, notice → toward.noticePending = false → s.settings.noticeStation p.other = some station →
        toward.line = .up →
        (4 ≤ toward.localQ.length → answer (written.onPort p.other fun q => q.count .noticesDropped 1)) ∧
        (toward.localQ.length < 4 → ∃ q',
          Placed u.now (byteTime u.sampled.rts) .noticesDropped
            { dest := station, source := s.station, kind := .note, mark := false, reach := s.settings.answerReach, tag := 0,
              payload := [0x01, byteOf first] ++ halfBytes (xs.headD 0) }
            { toward with noticePending := true } q' ∧
          answer (written.setPort p.other q'))))

/-- RESTART puts the slot into RESTARTING with its 20 ms limit, stores the DONE answer, and places it ahead of the Local Queue,
displacing the tail of a full one; a free transmitter takes it at once (R15, R17, R183, R200). -/
def Obligations.RestartIsPending : Prop :=
  ∀ (w : Since) (p : Port) (h : OrderHead) (s : State), Heard p h s → Admitted .restart [] p h s →
    let v := { arrived w p s with slot := .restarting { port := p, limit := s.now + w.elapsed + 20 * 4000 } }
    let a := answerOf 0x1F .done 0 [] v
    let x : Own := { telegram := answerTo h a v, restartAnswer := true }
    let q := { v.port p with lastAnswer := some { requester := h.source, tag := h.tag, answer := a } }
    let takes := Takes v.now (byteTime v.sampled.rts)
    ∃ t, exec (.restart w p h []) s = .next t ∧ t = v.setPort p (t.port p) ∧
      (q.localQ.length < 4 → takes { q with localQ := x :: q.localQ } (t.port p)) ∧
      (4 ≤ q.localQ.length →
        takes (({ q with localQ := x :: q.localQ.dropLast } : PortState).count .localItemsLost 1) (t.port p))
end

