-- ==== Sys2Proof/Laws/State.lean ====
section
/-! SUPPORT. Laws/State.lean: what each update of the state's records leaves as it was and what it writes, one lemma per field,
so that no proof unfolds an update. -/

namespace Sys2Proof.Laws

open Sys2Proof.Machine

/-! ## One port changed -/

theorem port_setPort (s : State) (p p' : Port) (x : PortState) :
    (s.setPort p x).port p' = if p' = p then x else s.port p' := by
  cases p <;> cases p' <;> rfl

@[simp] theorem port_setPort_same (s : State) (p : Port) (x : PortState) : (s.setPort p x).port p = x := by
  simp [port_setPort]

@[simp] theorem port_setPort_other (s : State) (p : Port) (x : PortState) :
    (s.setPort p x).port p.other = s.port p.other := by
  cases p <;> rfl

@[simp] theorem port_onPort_same (s : State) (p : Port) (f : PortState → PortState) :
    (s.onPort p f).port p = f (s.port p) := by
  simp [State.onPort]

@[simp] theorem port_onPort_other (s : State) (p : Port) (f : PortState → PortState) :
    (s.onPort p f).port p.other = s.port p.other := by
  simp [State.onPort]

theorem port_onPort (s : State) (p p' : Port) (f : PortState → PortState) :
    (s.onPort p f).port p' = if p' = p then f (s.port p) else s.port p' := by
  simp [State.onPort, port_setPort]

@[simp] theorem port_c (s : State) : s.port .c = s.portC := rfl

@[simp] theorem port_f (s : State) : s.port .f = s.portF := rfl

@[simp] theorem setPort_setPort (s : State) (p : Port) (x y : PortState) : (s.setPort p x).setPort p y = s.setPort p y := by
  cases p <;> rfl

@[simp] theorem setPort_self (s : State) (p : Port) : s.setPort p (s.port p) = s := by
  cases p <;> rfl

@[simp] theorem onPort_onPort (s : State) (p : Port) (f g : PortState → PortState) :
    (s.onPort p f).onPort p g = s.onPort p fun q => g (f q) := by
  simp [State.onPort]

@[simp] theorem other_other (p : Port) : p.other.other = p := by cases p <;> rfl

@[simp] theorem other_ne (p : Port) : p.other ≠ p := by cases p <;> decide

@[simp] theorem setPort_now (s : State) (p : Port) (x : PortState) : (s.setPort p x).now = s.now := rfl

@[simp] theorem setPort_inReset (s : State) (p : Port) (x : PortState) : (s.setPort p x).inReset = s.inReset := rfl

@[simp] theorem setPort_strapPins (s : State) (p : Port) (x : PortState) : (s.setPort p x).strapPins = s.strapPins := rfl

@[simp] theorem setPort_sampled (s : State) (p : Port) (x : PortState) : (s.setPort p x).sampled = s.sampled := rfl

@[simp] theorem setPort_gate (s : State) (p : Port) (x : PortState) : (s.setPort p x).gate = s.gate := rfl

@[simp] theorem setPort_fault (s : State) (p : Port) (x : PortState) : (s.setPort p x).fault = s.fault := rfl

@[simp] theorem setPort_bankA (s : State) (p : Port) (x : PortState) : (s.setPort p x).bankA = s.bankA := rfl

@[simp] theorem setPort_bankB (s : State) (p : Port) (x : PortState) : (s.setPort p x).bankB = s.bankB := rfl

@[simp] theorem setPort_activeBank (s : State) (p : Port) (x : PortState) : (s.setPort p x).activeBank = s.activeBank := rfl

@[simp] theorem setPort_generation (s : State) (p : Port) (x : PortState) : (s.setPort p x).generation = s.generation := rfl

@[simp] theorem setPort_petSound (s : State) (p : Port) (x : PortState) : (s.setPort p x).petSound = s.petSound := rfl

@[simp] theorem setPort_pet (s : State) (p : Port) (x : PortState) : (s.setPort p x).pet = s.pet := rfl

@[simp] theorem setPort_ring (s : State) (p : Port) (x : PortState) : (s.setPort p x).ring = s.ring := rfl

@[simp] theorem setPort_openCounter (s : State) (p : Port) (x : PortState) : (s.setPort p x).openCounter = s.openCounter := rfl

@[simp] theorem setPort_profiles (s : State) (p : Port) (x : PortState) : (s.setPort p x).profiles = s.profiles := rfl

@[simp] theorem setPort_holdDown (s : State) (p : Port) (x : PortState) : (s.setPort p x).holdDown = s.holdDown := rfl

@[simp] theorem setPort_holdUp (s : State) (p : Port) (x : PortState) : (s.setPort p x).holdUp = s.holdUp := rfl

@[simp] theorem setPort_tallies (s : State) (p : Port) (x : PortState) : (s.setPort p x).tallies = s.tallies := rfl

@[simp] theorem setPort_snapshots (s : State) (p : Port) (x : PortState) : (s.setPort p x).snapshots = s.snapshots := rfl

@[simp] theorem setPort_captureSeq (s : State) (p : Port) (x : PortState) : (s.setPort p x).captureSeq = s.captureSeq := rfl

@[simp] theorem setPort_captures (s : State) (p : Port) (x : PortState) : (s.setPort p x).captures = s.captures := rfl

@[simp] theorem setPort_overflow (s : State) (p : Port) (x : PortState) : (s.setPort p x).overflow = s.overflow := rfl

@[simp] theorem setPort_settings (s : State) (p : Port) (x : PortState) : (s.setPort p x).settings = s.settings := rfl

@[simp] theorem setPort_slot (s : State) (p : Port) (x : PortState) : (s.setPort p x).slot = s.slot := rfl

@[simp] theorem setPort_outcome (s : State) (p : Port) (x : PortState) : (s.setPort p x).outcome = s.outcome := rfl

@[simp] theorem setPort_words (s : State) (p : Port) (x : PortState) : (s.setPort p x).words = s.words := rfl

@[simp] theorem setPort_pending (s : State) (p : Port) (x : PortState) : (s.setPort p x).pending = s.pending := rfl

@[simp] theorem setPort_station (s : State) (p : Port) (x : PortState) : (s.setPort p x).station = s.station := rfl

@[simp] theorem setPort_bank (s : State) (p : Port) (x : PortState) (which : Bank) : (s.setPort p x).bank which = s.bank which := by
  cases which <;> rfl

@[simp] theorem setPort_hold (s : State) (p : Port) (x : PortState) (d : Direction) : (s.setPort p x).hold d = s.hold d := by
  cases d <;> rfl

@[simp] theorem onPort_now (s : State) (p : Port) (f : PortState → PortState) : (s.onPort p f).now = s.now := rfl

@[simp] theorem onPort_inReset (s : State) (p : Port) (f : PortState → PortState) : (s.onPort p f).inReset = s.inReset := rfl

@[simp] theorem onPort_strapPins (s : State) (p : Port) (f : PortState → PortState) : (s.onPort p f).strapPins = s.strapPins := rfl

@[simp] theorem onPort_sampled (s : State) (p : Port) (f : PortState → PortState) : (s.onPort p f).sampled = s.sampled := rfl

@[simp] theorem onPort_gate (s : State) (p : Port) (f : PortState → PortState) : (s.onPort p f).gate = s.gate := rfl

@[simp] theorem onPort_fault (s : State) (p : Port) (f : PortState → PortState) : (s.onPort p f).fault = s.fault := rfl

@[simp] theorem onPort_bankA (s : State) (p : Port) (f : PortState → PortState) : (s.onPort p f).bankA = s.bankA := rfl

@[simp] theorem onPort_bankB (s : State) (p : Port) (f : PortState → PortState) : (s.onPort p f).bankB = s.bankB := rfl

@[simp] theorem onPort_activeBank (s : State) (p : Port) (f : PortState → PortState) : (s.onPort p f).activeBank = s.activeBank := rfl

@[simp] theorem onPort_generation (s : State) (p : Port) (f : PortState → PortState) : (s.onPort p f).generation = s.generation := rfl

@[simp] theorem onPort_petSound (s : State) (p : Port) (f : PortState → PortState) : (s.onPort p f).petSound = s.petSound := rfl

@[simp] theorem onPort_pet (s : State) (p : Port) (f : PortState → PortState) : (s.onPort p f).pet = s.pet := rfl

@[simp] theorem onPort_ring (s : State) (p : Port) (f : PortState → PortState) : (s.onPort p f).ring = s.ring := rfl

@[simp] theorem onPort_openCounter (s : State) (p : Port) (f : PortState → PortState) : (s.onPort p f).openCounter = s.openCounter := rfl

@[simp] theorem onPort_profiles (s : State) (p : Port) (f : PortState → PortState) : (s.onPort p f).profiles = s.profiles := rfl

@[simp] theorem onPort_holdDown (s : State) (p : Port) (f : PortState → PortState) : (s.onPort p f).holdDown = s.holdDown := rfl

@[simp] theorem onPort_holdUp (s : State) (p : Port) (f : PortState → PortState) : (s.onPort p f).holdUp = s.holdUp := rfl

@[simp] theorem onPort_tallies (s : State) (p : Port) (f : PortState → PortState) : (s.onPort p f).tallies = s.tallies := rfl

@[simp] theorem onPort_snapshots (s : State) (p : Port) (f : PortState → PortState) : (s.onPort p f).snapshots = s.snapshots := rfl

@[simp] theorem onPort_captureSeq (s : State) (p : Port) (f : PortState → PortState) : (s.onPort p f).captureSeq = s.captureSeq := rfl

@[simp] theorem onPort_captures (s : State) (p : Port) (f : PortState → PortState) : (s.onPort p f).captures = s.captures := rfl

@[simp] theorem onPort_overflow (s : State) (p : Port) (f : PortState → PortState) : (s.onPort p f).overflow = s.overflow := rfl

@[simp] theorem onPort_settings (s : State) (p : Port) (f : PortState → PortState) : (s.onPort p f).settings = s.settings := rfl

@[simp] theorem onPort_slot (s : State) (p : Port) (f : PortState → PortState) : (s.onPort p f).slot = s.slot := rfl

@[simp] theorem onPort_outcome (s : State) (p : Port) (f : PortState → PortState) : (s.onPort p f).outcome = s.outcome := rfl

@[simp] theorem onPort_words (s : State) (p : Port) (f : PortState → PortState) : (s.onPort p f).words = s.words := rfl

@[simp] theorem onPort_pending (s : State) (p : Port) (f : PortState → PortState) : (s.onPort p f).pending = s.pending := rfl

@[simp] theorem onPort_station (s : State) (p : Port) (f : PortState → PortState) : (s.onPort p f).station = s.station := rfl

@[simp] theorem onPort_bank (s : State) (p : Port) (f : PortState → PortState) (which : Bank) : (s.onPort p f).bank which = s.bank which := by
  cases which <;> rfl

@[simp] theorem onPort_hold (s : State) (p : Port) (f : PortState → PortState) (d : Direction) : (s.onPort p f).hold d = s.hold d := by
  cases d <;> rfl

/-! ## One bank replaced -/

@[simp] theorem setBank_now (s : State) (which : Bank) (x : RuleBank) : (s.setBank which x).now = s.now := rfl

@[simp] theorem setBank_inReset (s : State) (which : Bank) (x : RuleBank) : (s.setBank which x).inReset = s.inReset := rfl

@[simp] theorem setBank_strapPins (s : State) (which : Bank) (x : RuleBank) : (s.setBank which x).strapPins = s.strapPins := rfl

@[simp] theorem setBank_sampled (s : State) (which : Bank) (x : RuleBank) : (s.setBank which x).sampled = s.sampled := rfl

@[simp] theorem setBank_gate (s : State) (which : Bank) (x : RuleBank) : (s.setBank which x).gate = s.gate := rfl

@[simp] theorem setBank_fault (s : State) (which : Bank) (x : RuleBank) : (s.setBank which x).fault = s.fault := rfl

@[simp] theorem setBank_portC (s : State) (which : Bank) (x : RuleBank) : (s.setBank which x).portC = s.portC := rfl

@[simp] theorem setBank_portF (s : State) (which : Bank) (x : RuleBank) : (s.setBank which x).portF = s.portF := rfl

@[simp] theorem setBank_activeBank (s : State) (which : Bank) (x : RuleBank) : (s.setBank which x).activeBank = s.activeBank := rfl

@[simp] theorem setBank_generation (s : State) (which : Bank) (x : RuleBank) : (s.setBank which x).generation = s.generation := rfl

@[simp] theorem setBank_petSound (s : State) (which : Bank) (x : RuleBank) : (s.setBank which x).petSound = s.petSound := rfl

@[simp] theorem setBank_pet (s : State) (which : Bank) (x : RuleBank) : (s.setBank which x).pet = s.pet := rfl

@[simp] theorem setBank_ring (s : State) (which : Bank) (x : RuleBank) : (s.setBank which x).ring = s.ring := rfl

@[simp] theorem setBank_openCounter (s : State) (which : Bank) (x : RuleBank) : (s.setBank which x).openCounter = s.openCounter := rfl

@[simp] theorem setBank_profiles (s : State) (which : Bank) (x : RuleBank) : (s.setBank which x).profiles = s.profiles := rfl

@[simp] theorem setBank_holdDown (s : State) (which : Bank) (x : RuleBank) : (s.setBank which x).holdDown = s.holdDown := rfl

@[simp] theorem setBank_holdUp (s : State) (which : Bank) (x : RuleBank) : (s.setBank which x).holdUp = s.holdUp := rfl

@[simp] theorem setBank_tallies (s : State) (which : Bank) (x : RuleBank) : (s.setBank which x).tallies = s.tallies := rfl

@[simp] theorem setBank_snapshots (s : State) (which : Bank) (x : RuleBank) : (s.setBank which x).snapshots = s.snapshots := rfl

@[simp] theorem setBank_captureSeq (s : State) (which : Bank) (x : RuleBank) : (s.setBank which x).captureSeq = s.captureSeq := rfl

@[simp] theorem setBank_captures (s : State) (which : Bank) (x : RuleBank) : (s.setBank which x).captures = s.captures := rfl

@[simp] theorem setBank_overflow (s : State) (which : Bank) (x : RuleBank) : (s.setBank which x).overflow = s.overflow := rfl

@[simp] theorem setBank_settings (s : State) (which : Bank) (x : RuleBank) : (s.setBank which x).settings = s.settings := rfl

@[simp] theorem setBank_slot (s : State) (which : Bank) (x : RuleBank) : (s.setBank which x).slot = s.slot := rfl

@[simp] theorem setBank_outcome (s : State) (which : Bank) (x : RuleBank) : (s.setBank which x).outcome = s.outcome := rfl

@[simp] theorem setBank_words (s : State) (which : Bank) (x : RuleBank) : (s.setBank which x).words = s.words := rfl

@[simp] theorem setBank_pending (s : State) (which : Bank) (x : RuleBank) : (s.setBank which x).pending = s.pending := rfl

@[simp] theorem setBank_port (s : State) (which : Bank) (x : RuleBank) (p : Port) : (s.setBank which x).port p = s.port p := by
  cases p <;> rfl

theorem bank_setBank (s : State) (which other : Bank) (x : RuleBank) :
    (s.setBank which x).bank other = if other = which then x else s.bank other := by
  cases which <;> cases other <;> rfl

@[simp] theorem bank_setBank_same (s : State) (which : Bank) (x : RuleBank) : (s.setBank which x).bank which = x := by
  simp [bank_setBank]

/-! ## The clock -/

@[simp] theorem reach_inReset (s : State) (due : Moment) : (s.reach due).inReset = s.inReset := rfl

@[simp] theorem reach_strapPins (s : State) (due : Moment) : (s.reach due).strapPins = s.strapPins := rfl

@[simp] theorem reach_sampled (s : State) (due : Moment) : (s.reach due).sampled = s.sampled := rfl

@[simp] theorem reach_gate (s : State) (due : Moment) : (s.reach due).gate = s.gate := rfl

@[simp] theorem reach_fault (s : State) (due : Moment) : (s.reach due).fault = s.fault := rfl

@[simp] theorem reach_portC (s : State) (due : Moment) : (s.reach due).portC = s.portC := rfl

@[simp] theorem reach_portF (s : State) (due : Moment) : (s.reach due).portF = s.portF := rfl

@[simp] theorem reach_bankA (s : State) (due : Moment) : (s.reach due).bankA = s.bankA := rfl

@[simp] theorem reach_bankB (s : State) (due : Moment) : (s.reach due).bankB = s.bankB := rfl

@[simp] theorem reach_activeBank (s : State) (due : Moment) : (s.reach due).activeBank = s.activeBank := rfl

@[simp] theorem reach_generation (s : State) (due : Moment) : (s.reach due).generation = s.generation := rfl

@[simp] theorem reach_petSound (s : State) (due : Moment) : (s.reach due).petSound = s.petSound := rfl

@[simp] theorem reach_pet (s : State) (due : Moment) : (s.reach due).pet = s.pet := rfl

@[simp] theorem reach_ring (s : State) (due : Moment) : (s.reach due).ring = s.ring := rfl

@[simp] theorem reach_openCounter (s : State) (due : Moment) : (s.reach due).openCounter = s.openCounter := rfl

@[simp] theorem reach_profiles (s : State) (due : Moment) : (s.reach due).profiles = s.profiles := rfl

@[simp] theorem reach_holdDown (s : State) (due : Moment) : (s.reach due).holdDown = s.holdDown := rfl

@[simp] theorem reach_holdUp (s : State) (due : Moment) : (s.reach due).holdUp = s.holdUp := rfl

@[simp] theorem reach_tallies (s : State) (due : Moment) : (s.reach due).tallies = s.tallies := rfl

@[simp] theorem reach_snapshots (s : State) (due : Moment) : (s.reach due).snapshots = s.snapshots := rfl

@[simp] theorem reach_captureSeq (s : State) (due : Moment) : (s.reach due).captureSeq = s.captureSeq := rfl

@[simp] theorem reach_captures (s : State) (due : Moment) : (s.reach due).captures = s.captures := rfl

@[simp] theorem reach_overflow (s : State) (due : Moment) : (s.reach due).overflow = s.overflow := rfl

@[simp] theorem reach_settings (s : State) (due : Moment) : (s.reach due).settings = s.settings := rfl

@[simp] theorem reach_slot (s : State) (due : Moment) : (s.reach due).slot = s.slot := rfl

@[simp] theorem reach_outcome (s : State) (due : Moment) : (s.reach due).outcome = s.outcome := rfl

@[simp] theorem reach_words (s : State) (due : Moment) : (s.reach due).words = s.words := rfl

@[simp] theorem reach_pending (s : State) (due : Moment) : (s.reach due).pending = s.pending := rfl

@[simp] theorem reach_now (s : State) (due : Moment) : (s.reach due).now = max s.now due := rfl

@[simp] theorem reach_port (s : State) (due : Moment) (p : Port) : (s.reach due).port p = s.port p := by
  cases p <;> rfl

/-! ## One port counter raised -/

@[simp] theorem count_signal (q : PortState) (k : PortCounter) (n : Nat) : (q.count k n).signal = q.signal := rfl

@[simp] theorem count_line (q : PortState) (k : PortCounter) (n : Nat) : (q.count k n).line = q.line := rfl

@[simp] theorem count_timing (q : PortState) (k : PortCounter) (n : Nat) : (q.count k n).timing = q.timing := rfl

@[simp] theorem count_assembly (q : PortState) (k : PortCounter) (n : Nat) : (q.count k n).assembly = q.assembly := rfl

@[simp] theorem count_lostFrame (q : PortState) (k : PortCounter) (n : Nat) : (q.count k n).lostFrame = q.lostFrame := rfl

@[simp] theorem count_forwardQ (q : PortState) (k : PortCounter) (n : Nat) : (q.count k n).forwardQ = q.forwardQ := rfl

@[simp] theorem count_localQ (q : PortState) (k : PortCounter) (n : Nat) : (q.count k n).localQ = q.localQ := rfl

@[simp] theorem count_sending (q : PortState) (k : PortCounter) (n : Nat) : (q.count k n).sending = q.sending := rfl

@[simp] theorem count_lastAnswer (q : PortState) (k : PortCounter) (n : Nat) : (q.count k n).lastAnswer = q.lastAnswer := rfl

@[simp] theorem count_noticePending (q : PortState) (k : PortCounter) (n : Nat) : (q.count k n).noticePending = q.noticePending := rfl

@[simp] theorem count_counters (q : PortState) (k : PortCounter) (n : Nat) :
    (q.count k n).counters = modifyAt q.counters k.index (fun x => satAdd x n) := rfl

/-! ## A transmitter's taking -/

/-- A taking changes the two queues and the transmission, and nothing else of the port (R17). -/
theorem take_fields (now bt : Nat) (q : PortState) :
    (q.take now bt) = { q with localQ := (q.take now bt).localQ, forwardQ := (q.take now bt).forwardQ,
                               sending := (q.take now bt).sending } := by
  unfold PortState.take
  split
  · split
    · rfl
    · split <;> rfl
  · rfl

@[simp] theorem take_signal (now bt : Nat) (q : PortState) : (q.take now bt).signal = q.signal := by
  rw [take_fields]

@[simp] theorem take_line (now bt : Nat) (q : PortState) : (q.take now bt).line = q.line := by
  rw [take_fields]

@[simp] theorem take_timing (now bt : Nat) (q : PortState) : (q.take now bt).timing = q.timing := by
  rw [take_fields]

@[simp] theorem take_assembly (now bt : Nat) (q : PortState) : (q.take now bt).assembly = q.assembly := by
  rw [take_fields]

@[simp] theorem take_lostFrame (now bt : Nat) (q : PortState) : (q.take now bt).lostFrame = q.lostFrame := by
  rw [take_fields]

@[simp] theorem take_counters (now bt : Nat) (q : PortState) : (q.take now bt).counters = q.counters := by
  rw [take_fields]

@[simp] theorem take_lastAnswer (now bt : Nat) (q : PortState) : (q.take now bt).lastAnswer = q.lastAnswer := by
  rw [take_fields]

@[simp] theorem take_noticePending (now bt : Nat) (q : PortState) : (q.take now bt).noticePending = q.noticePending := by
  rw [take_fields]

end Sys2Proof.Laws
end

