-- ==== Sys2Proof/Laws/Ops.lean ====
section
/-! SUPPORT. Laws/Ops.lean: for each shared operation, what it can do, said once. -/

namespace Sys2Proof.Laws

open Sys2Proof.Machine Sys2Proof.Safety

/-! ## Tables -/

theorem modifyAt_get {α : Type} {n : Nat} (v : Vector α n) (i j : Fin n) (f : α → α) :
    (modifyAt v i f)[j] = if i = j then f v[i] else v[j] := by
  simp only [modifyAt, Fin.getElem_fin, Vector.getElem_set, Fin.ext_iff]

@[simp] theorem modifyAt_same {α : Type} {n : Nat} (v : Vector α n) (i : Fin n) (f : α → α) :
    (modifyAt v i f)[i.val] = f v[i.val] := by
  simp [modifyAt]

theorem satAdd_le (x : Count) (n : Nat) : (satAdd x n).toNat = min (x.toNat + n) Config.countLimit := by
  simp only [satAdd, BitVec.toNat_ofNat, Config.countLimit]
  omega

theorem satAdd_satAdd (x : Count) (m n : Nat) : satAdd (satAdd x m) n = satAdd x (m + n) := by
  apply BitVec.eq_of_toNat_eq
  simp only [satAdd_le, Config.countLimit]
  omega

@[simp] theorem satAdd_zero (x : Count) : satAdd x 0 = x := by
  apply BitVec.eq_of_toNat_eq
  have := x.isLt
  simp only [satAdd_le, Config.countLimit]
  omega

/-! ## What passes between commands -/

/-- The items of two stores are the same, whatever their check codes (R197). -/
def SameItems (s t : State) : Prop :=
  (∀ (which : Bank) (i : RuleIndex), (t.bank which)[i].item = (s.bank which)[i].item) ∧
    (∀ g : Group, t.tallies[g].item = s.tallies[g].item) ∧
    ∀ g : Group, t.snapshots[g].map (fun x => { x with sound := true }) = s.snapshots[g].map fun x => { x with sound := true }

theorem SameItems.refl (s : State) : SameItems s s := ⟨fun _ _ => rfl, fun _ => rfl, fun _ => rfl⟩

theorem SameItems.trans {s t u : State} (h : SameItems s t) (h' : SameItems t u) : SameItems s u :=
  ⟨fun which i => (h'.1 which i).trans (h.1 which i), fun g => (h'.2.1 g).trans (h.2.1 g), fun g => (h'.2.2 g).trans (h.2.2 g)⟩

/-- An upset touches the banks' check codes, the PET's, the tally groups' and the slots'. -/
theorem upset_fields (s : State) (x : StoreItem) :
    upset s x = { s with bankA := (upset s x).bankA, bankB := (upset s x).bankB, petSound := (upset s x).petSound,
                         tallies := (upset s x).tallies, snapshots := (upset s x).snapshots } := by
  cases x <;> rfl

/-- An upset changes no item, only whether its check code is right (R197). -/
theorem upset_sameItems (s : State) (x : StoreItem) : SameItems s (upset s x) := by
  cases x with
  | rule bank i =>
    refine ⟨fun which j => ?_, fun _ => rfl, fun _ => rfl⟩
    simp only [upset, bank_setBank]
    split
    · subst which; rw [modifyAt_get]; split <;> simp_all
    · rfl
  | exchange slot => exact ⟨fun which _ => by cases which <;> rfl, fun _ => rfl, fun _ => rfl⟩
  | tally g =>
    refine ⟨fun which _ => by cases which <;> rfl, fun g' => ?_, fun _ => rfl⟩
    simp only [upset, modifyAt_get]
    split <;> simp_all
  | snapshot g =>
    refine ⟨fun which _ => by cases which <;> rfl, fun _ => rfl, fun g' => ?_⟩
    simp only [upset, modifyAt_get]
    split
    · subst g'; cases s.snapshots[g] <;> rfl
    · rfl

/-- What passes between commands touches the clock, the strap pins and check codes, and nothing else. -/
theorem lapse_fields (w : Since) (s : State) :
    lapse w s = { s with now := s.now + w.elapsed, strapPins := w.straps.getD s.strapPins,
                         bankA := (lapse w s).bankA, bankB := (lapse w s).bankB, petSound := (lapse w s).petSound,
                         tallies := (lapse w s).tallies, snapshots := (lapse w s).snapshots } := by
  unfold lapse
  generalize hs : ({ s with now := s.now + w.elapsed, strapPins := w.straps.getD s.strapPins } : State) = t
  have key : ∀ (xs : List StoreItem) (t : State), xs.foldl upset t =
      { t with bankA := (xs.foldl upset t).bankA, bankB := (xs.foldl upset t).bankB, petSound := (xs.foldl upset t).petSound,
               tallies := (xs.foldl upset t).tallies, snapshots := (xs.foldl upset t).snapshots } := by
    intro xs
    induction xs with
    | nil => intro t; rfl
    | cons x xs ih => intro t; rw [List.foldl_cons, ih (upset t x), upset_fields t x]
  rw [key w.upsets t]
  subst hs
  rfl

/-- What passes between commands changes no stored item (R197). -/
theorem lapse_sameItems (w : Since) (s : State) : SameItems s (lapse w s) := by
  have key : ∀ (xs : List StoreItem) (t : State), SameItems t (xs.foldl upset t) := by
    intro xs
    induction xs with
    | nil => exact SameItems.refl
    | cons x xs ih => intro t; exact (upset_sameItems t x).trans (ih _)
  exact SameItems.trans ⟨fun which _ => by cases which <;> rfl, fun _ => rfl, fun _ => rfl⟩ (key w.upsets _)

/-- With no upset, time passes and the pins change, and that is all. -/
theorem lapse_noUpset (w : Since) (s : State) (h : w.upsets = []) :
    lapse w s = { s with now := s.now + w.elapsed, strapPins := w.straps.getD s.strapPins } := by
  simp [lapse, h]

@[simp] theorem lapse_inReset (w : Since) (s : State) : (lapse w s).inReset = s.inReset := by rw [lapse_fields]

@[simp] theorem lapse_sampled (w : Since) (s : State) : (lapse w s).sampled = s.sampled := by rw [lapse_fields]

@[simp] theorem lapse_gate (w : Since) (s : State) : (lapse w s).gate = s.gate := by rw [lapse_fields]

@[simp] theorem lapse_fault (w : Since) (s : State) : (lapse w s).fault = s.fault := by rw [lapse_fields]

@[simp] theorem lapse_portC (w : Since) (s : State) : (lapse w s).portC = s.portC := by rw [lapse_fields]

@[simp] theorem lapse_portF (w : Since) (s : State) : (lapse w s).portF = s.portF := by rw [lapse_fields]

@[simp] theorem lapse_activeBank (w : Since) (s : State) : (lapse w s).activeBank = s.activeBank := by rw [lapse_fields]

@[simp] theorem lapse_generation (w : Since) (s : State) : (lapse w s).generation = s.generation := by rw [lapse_fields]

@[simp] theorem lapse_pet (w : Since) (s : State) : (lapse w s).pet = s.pet := by rw [lapse_fields]

@[simp] theorem lapse_ring (w : Since) (s : State) : (lapse w s).ring = s.ring := by rw [lapse_fields]

@[simp] theorem lapse_openCounter (w : Since) (s : State) : (lapse w s).openCounter = s.openCounter := by rw [lapse_fields]

@[simp] theorem lapse_profiles (w : Since) (s : State) : (lapse w s).profiles = s.profiles := by rw [lapse_fields]

@[simp] theorem lapse_holdDown (w : Since) (s : State) : (lapse w s).holdDown = s.holdDown := by rw [lapse_fields]

@[simp] theorem lapse_holdUp (w : Since) (s : State) : (lapse w s).holdUp = s.holdUp := by rw [lapse_fields]

@[simp] theorem lapse_captureSeq (w : Since) (s : State) : (lapse w s).captureSeq = s.captureSeq := by rw [lapse_fields]

@[simp] theorem lapse_captures (w : Since) (s : State) : (lapse w s).captures = s.captures := by rw [lapse_fields]

@[simp] theorem lapse_overflow (w : Since) (s : State) : (lapse w s).overflow = s.overflow := by rw [lapse_fields]

@[simp] theorem lapse_settings (w : Since) (s : State) : (lapse w s).settings = s.settings := by rw [lapse_fields]

@[simp] theorem lapse_slot (w : Since) (s : State) : (lapse w s).slot = s.slot := by rw [lapse_fields]

@[simp] theorem lapse_outcome (w : Since) (s : State) : (lapse w s).outcome = s.outcome := by rw [lapse_fields]

@[simp] theorem lapse_words (w : Since) (s : State) : (lapse w s).words = s.words := by rw [lapse_fields]

@[simp] theorem lapse_pending (w : Since) (s : State) : (lapse w s).pending = s.pending := by rw [lapse_fields]

@[simp] theorem lapse_port (w : Since) (s : State) (p : Port) : (lapse w s).port p = s.port p := by
  rw [lapse_fields]; cases p <;> rfl

@[simp] theorem lapse_station (w : Since) (s : State) : (lapse w s).station = s.station := by
  rw [lapse_fields]; rfl

@[simp] theorem lapse_now (w : Since) (s : State) : (lapse w s).now = s.now + w.elapsed := by rw [lapse_fields]

/-! ## Placing in a Local Queue -/

/-- A take, by the cases of R17. -/
theorem portTake_takes (now bt : Nat) (q : PortState) : Takes now bt q (q.take now bt) := by
  refine ⟨fun h => ?_, fun h h' => ⟨fun x xs hx => ?_, fun hl x xs hx => ?_, fun hl hx => ?_⟩⟩
  · unfold PortState.take
    rw [if_neg]
    rintro ⟨a, b⟩
    rcases h with h | h
    · rw [h] at a; cases a
    · exact h b
  · simp [PortState.take, h, h', hx, Transmission.begin, Config.gapBytes]
  · simp [PortState.take, h, h', hx, hl, Transmission.begin, Config.gapBytes]
  · simp [PortState.take, h, h', hx, hl]

/-- An ordinary placement, by the cases of R15 and R17. -/
theorem offer_placed (now bt : Nat) (refused : PortCounter) (t : Telegram) (q : PortState) :
    Placed now bt refused t q (q.offer now bt refused t) := by
  refine ⟨fun h => ?_, fun h => ?_⟩
  · simp [PortState.offer, h]
  · simp only [PortState.offer, h, if_true]
    exact portTake_takes now bt _

/-- A placement touches its own port alone. -/
theorem offer_port (p : Port) (refused : PortCounter) (t : Telegram) (s : State) :
    offer p refused t s = s.setPort p ((s.port p).offer s.now (byteTime s.sampled.rts) refused t) := rfl

/-- A placement touches the queues, the transmission and the counters of its port, and nothing else there. -/
theorem offer_fields (now bt : Nat) (refused : PortCounter) (t : Telegram) (q : PortState) :
    q.offer now bt refused t =
      { q with localQ := (q.offer now bt refused t).localQ, forwardQ := (q.offer now bt refused t).forwardQ,
               sending := (q.offer now bt refused t).sending, counters := (q.offer now bt refused t).counters } := by
  unfold PortState.offer
  split
  · rw [take_fields]
  · rfl

@[simp] theorem offer_signal (now bt : Nat) (refused : PortCounter) (t : Telegram) (q : PortState) :
    (q.offer now bt refused t).signal = q.signal := by
  rw [offer_fields]

@[simp] theorem offer_line (now bt : Nat) (refused : PortCounter) (t : Telegram) (q : PortState) :
    (q.offer now bt refused t).line = q.line := by
  rw [offer_fields]

@[simp] theorem offer_timing (now bt : Nat) (refused : PortCounter) (t : Telegram) (q : PortState) :
    (q.offer now bt refused t).timing = q.timing := by
  rw [offer_fields]

@[simp] theorem offer_assembly (now bt : Nat) (refused : PortCounter) (t : Telegram) (q : PortState) :
    (q.offer now bt refused t).assembly = q.assembly := by
  rw [offer_fields]

@[simp] theorem offer_lostFrame (now bt : Nat) (refused : PortCounter) (t : Telegram) (q : PortState) :
    (q.offer now bt refused t).lostFrame = q.lostFrame := by
  rw [offer_fields]

@[simp] theorem offer_lastAnswer (now bt : Nat) (refused : PortCounter) (t : Telegram) (q : PortState) :
    (q.offer now bt refused t).lastAnswer = q.lastAnswer := by
  rw [offer_fields]

@[simp] theorem offer_noticePending (now bt : Nat) (refused : PortCounter) (t : Telegram) (q : PortState) :
    (q.offer now bt refused t).noticePending = q.noticePending := by
  rw [offer_fields]

/-! ## Tallies -/

/-- A tally changes the tally groups and the fault found, and nothing else. -/
theorem tally_fields (group : Option Group) (changes : List (Counter × Nat)) (e : Course) :
    (e.tally group changes).state = { e.state with tallies := (e.tally group changes).state.tallies } := by
  unfold Course.tally
  split
  · split <;> rfl
  · rfl

/-- A tally of a group whose check code is right is made in that group (R112). -/
theorem tally_made (g : Group) (changes : List (Counter × Nat)) (e : Course) (h : e.found = none)
    (hs : e.state.tallies[g].sound = true) :
    e.tally (some g) changes =
      { e with state := { e.state with
          tallies := e.state.tallies.set g (Checked.fresh (addTo changes e.state.tallies[g].item)) } } := by
  obtain ⟨s, found⟩ := e
  obtain rfl : found = none := h
  exact if_pos hs

/-- A tally of a group whose check code is wrong is not made: the fault is found (R116). -/
theorem tally_corrupt (g : Group) (changes : List (Counter × Nat)) (e : Course) (h : e.found = none)
    (hs : e.state.tallies[g].sound = false) : e.tally (some g) changes = { e with found := some (.tallyStore g) } := by
  obtain ⟨s, found⟩ := e
  obtain rfl : found = none := h
  exact if_neg (by rw [hs]; decide)

/-- A tally without a group is made nowhere (R114). -/
@[simp] theorem tally_absent (changes : List (Counter × Nat)) (e : Course) : e.tally none changes = e := by
  unfold Course.tally
  cases e.found <;> rfl

/-- Once a fault has been found no tally of the event is made (R116). -/
theorem tally_afterFault (group : Option Group) (changes : List (Counter × Nat)) (e : Course) (h : e.found ≠ none) :
    e.tally group changes = e := by
  unfold Course.tally
  cases hf : e.found with
  | none => exact absurd hf h
  | some f => rfl

/-- The tallies of a removed queue change the tally groups alone. -/
theorem tallyQueue_fields (k : Counter) (xs : List Forwarded) (e : Course) :
    (e.tallyQueue k xs).state = { e.state with tallies := (e.tallyQueue k xs).state.tallies } := by
  induction xs generalizing e with
  | nil => rfl
  | cons x xs ih =>
    rw [Course.tallyQueue, List.foldl_cons, ← Course.tallyQueue, ih (e.tally1 x.group k), Course.tally1, tally_fields]

/-! ## The end of a commit and the halt -/

/-- A commit's end touches the slot, the Outcome Record and the port of the commit, and nothing else (R99 to R101). -/
theorem endCommit_fields (c : CommitContext) (result : CommitResult) (detail : Half) (shown : GateState) (s : State) :
    endCommit c result detail shown s =
      ({ s with slot := .idle,
                outcome := some { requester := c.requester, port := c.port, tag := c.tag, result := result, detail := detail } } :
        State).setPort c.port ((endCommit c result detail shown s).port c.port) := by
  simp [endCommit, sendAnswer, offer_port, State.onPort]

/-- Entering HALTED with no commit in flight (R198). -/
theorem enterHalted_noCommit (fault : GateFault) (s : State) (h : s.slot.state ≠ .validating) :
    enterHalted fault s =
      clearForward .c (clearForward .f { s with
        gate := .halted, fault := some fault, holdDown := true, holdUp := true, pet := [], ring := [] }) := by
  unfold enterHalted
  cases hs : s.slot with
  | validating c => simp [hs, Slot.state] at h
  | idle => simp [clearForward, State.onPort, State.setPort]
  | restarting r => simp [clearForward, State.onPort, State.setPort]

/-- Entering HALTED with a commit in flight ends it FAULTED (R105, R198). -/
theorem enterHalted_commit (fault : GateFault) (s : State) (c : CommitContext) (h : s.slot = .validating c) :
    enterHalted fault s =
      endCommit c .faulted 0 .halted (clearForward .c (clearForward .f { s with
        gate := .halted, fault := some fault, holdDown := true, holdUp := true, pet := [], ring := [] })) := by
  unfold enterHalted
  simp [clearForward, State.onPort, State.setPort, h]

/-- A wrong check code halts a SERVING gate (R197). -/
theorem haltOn_serving (fault : GateFault) (s : State) (h : s.gate = .serving) : haltOn fault s = enterHalted fault s := by
  simp [haltOn, h]

/-- A gate that is not SERVING stays as it stands (R116, R197). -/
theorem haltOn_stopped (fault : GateFault) (s : State) (h : s.gate ≠ .serving) : haltOn fault s = s := by
  simp [haltOn, h]

/-- An event that found no fault ends with its effects. -/
theorem finish_sound (e : Course) (h : e.found = none) : e.finish = e.state := by
  simp [Course.finish, h]

/-! ## Flush and hold -/

/-- One entry of a flush leaves the PET, the ring and everything but the ports and the tallies as they were. -/
theorem flushEntry_fields (notify : Option Port) (e : Course) (x : PetEntry) :
    (flushEntry notify e x).state =
      { e.state with portC := (flushEntry notify e x).state.portC, portF := (flushEntry notify e x).state.portF,
                     tallies := (flushEntry notify e x).state.tallies } := by
  unfold flushEntry
  split
  · rfl
  · split
    · dsimp only
      split
      · simp only [Course.map, offerNotice, offer_port, State.setPort, Course.tally1]
        rw [tally_fields]
      · rw [Course.tally1, tally_fields]
    · rfl

/-- A flush empties the PET and the Lapsed Ring and otherwise touches the ports and the tallies alone (R62, R64). -/
theorem flush_fields (notify : Option Port) (e : Course) :
    (flush notify e).state =
      { e.state with portC := (flush notify e).state.portC, portF := (flush notify e).state.portF,
                     tallies := (flush notify e).state.tallies, pet := [], ring := [] } := by
  have key : ∀ (xs : List PetEntry) (e : Course), (xs.foldl (flushEntry notify) e).state =
      { e.state with portC := (xs.foldl (flushEntry notify) e).state.portC,
                     portF := (xs.foldl (flushEntry notify) e).state.portF,
                     tallies := (xs.foldl (flushEntry notify) e).state.tallies } := by
    intro xs
    induction xs with
    | nil => intro e; rfl
    | cons x xs ih => intro e; rw [List.foldl_cons, ih (flushEntry notify e x), flushEntry_fields]
  unfold flush
  simp only [Course.map]
  rw [key e.state.pet e]

/-- A hold of one direction touches the flags, the Forward Queues and the tallies alone (R108). -/
theorem holdDirection_fields (d : Direction) (named : Bool) (e : Course) :
    (holdDirection d named e).state =
      { e.state with portC := (holdDirection d named e).state.portC, portF := (holdDirection d named e).state.portF,
                     tallies := (holdDirection d named e).state.tallies,
                     holdDown := (holdDirection d named e).state.holdDown,
                     holdUp := (holdDirection d named e).state.holdUp } := by
  unfold holdDirection
  split
  · dsimp only
    rw [tallyQueue_fields]
    cases d <;> rfl
  · rfl

/-- A hold of named directions touches the flags, the Forward Queues and the tallies alone (R108). -/
theorem holdNamed_fields (down up : Bool) (e : Course) :
    (holdNamed down up e).state =
      { e.state with portC := (holdNamed down up e).state.portC, portF := (holdNamed down up e).state.portF,
                     tallies := (holdNamed down up e).state.tallies, holdDown := (holdNamed down up e).state.holdDown,
                     holdUp := (holdNamed down up e).state.holdUp } := by
  unfold holdNamed
  rw [holdDirection_fields .upward, holdDirection_fields .downward]

/-! ## The Order Engine -/

/-- The order of an order's code is that order (R205). -/
@[simp] theorem orderFor_byte (k : OrderCode) : orderFor k.byte = some k := by cases k <;> decide

/-- The station number in use is one a telegram may carry as source or destination (R194). -/
theorem stationOf_ok (stn : Byte) : sourceByteOk (stationOf stn) = true := by
  unfold stationOf
  split
  · simp_all [sourceByteOk]
  · decide

/-- The gate's station is never broadcast. -/
theorem station_ne_broadcast (s : State) : s.station ≠ 255 := by
  intro h
  have := stationOf_ok s.sampled.stn
  rw [show stationOf s.sampled.stn = 255 from h] at this
  exact absurd this (by decide)

/-- What a port receives does not depend on what passes between commands. -/
@[simp] theorem receiving_lapse (w : Since) (p : Port) (s : State) : receiving p (lapse w s) = receiving p s := by
  simp [receiving]

/-- An order of a station that passes the addressing check is handed to the Order Engine (R7, R8). -/
theorem intakeTelegram_order (p : Port) (h : OrderHead) (payload : List Byte) (s : State)
    (hs : stationOk h.source = true) (hn : h.source ≠ s.station) :
    intakeTelegram p (orderTelegram h payload s) (dropAssembly p s) =
      takeOrder p h payload (bump p .goodReceived (dropAssembly p s)) := by
  have hst : (dropAssembly p s).station = s.station := by simp [dropAssembly]
  have hd : destByteOk s.station = true := by
    simp [destByteOk, show sourceByteOk s.station = true from stationOf_ok _]
  have hill : illAddressed (dropAssembly p s).station (orderTelegram h payload s) = false := by
    simp [illAddressed, orderTelegram, hst, hd, show sourceByteOk h.source = true from hs, hn]
    exact decide_eq_false (station_ne_broadcast s)
  unfold intakeTelegram
  rw [hill]
  simp [orderTelegram, hst]

/-- An order that is heard is taken by the Order Engine, its assembly handed over and good received counted (R2, R8). -/
theorem orderEnd_heard (w : Since) (p : Port) (h : OrderHead) (payload : List Byte) (s : State) (hh : Heard p h s) :
    orderEnd p h payload (lapse w s) = takeOrder p h payload (bump p .goodReceived (dropAssembly p (lapse w s))) := by
  unfold orderEnd
  rw [receiving_lapse, hh.1, if_pos rfl, intakeTelegram_order p h payload _ hh.2.1 (by simpa using hh.2.2)]

/-- Under field access NONE an order at Port F is discarded and counted, in every gate and slot state (R143). -/
theorem takeOrder_closed (h : OrderHead) (payload : List Byte) (s : State) (ha : s.settings.access = .closed) :
    takeOrder .f h payload s = bump .f .ordersRefused s := by
  simp [takeOrder, ha]

/-- A repeat sends the stored answer again and counts it (R145). -/
theorem takeOrder_repeat (p : Port) (h : OrderHead) (payload : List Byte) (s : State) (a : Answer)
    (hp : ¬(p = .f ∧ s.settings.access = .closed)) (hr : repeatOf p h (bump p .ordersTaken s) = some a) :
    takeOrder p h payload s = sendAnswer p h.source h.tag a (bump p .repeatsAnswered (bump p .ordersTaken s)) := by
  simp only [takeOrder, if_neg hp, hr]

/-- An order that tests 2 to 5 refuse is answered with the refusing status (R144). -/
theorem takeOrder_refused (p : Port) (h : OrderHead) (payload : List Byte) (s : State) (status : Status)
    (hp : ¬(p = .f ∧ s.settings.access = .closed)) (hr : repeatOf p h (bump p .ordersTaken s) = none)
    (ht : refusal p (orderFor (payload.headD 0)) (payload.drop 1) (bump p .ordersTaken s) = some status) :
    takeOrder p h payload s = answerOrder p h (payload.headD 0) status 0 [] (bump p .ordersTaken s) := by
  simp only [takeOrder, if_neg hp, hr, ht]

/-- An order that every test lets pass is executed (R150). -/
theorem takeOrder_runs (p : Port) (h : OrderHead) (k : OrderCode) (args : List Byte) (s : State)
    (hp : ¬(p = .f ∧ s.settings.access = .closed)) (hr : repeatOf p h (bump p .ordersTaken s) = none)
    (ht : refusal p (some k) args (bump p .ordersTaken s) = none) :
    takeOrder p h (k.byte :: args) s = concludeOrder p h k.byte (runOrder k p h args (bump p .ordersTaken s)) := by
  simp only [takeOrder, if_neg hp, hr, List.headD_cons, List.drop_succ_cons, List.drop_zero, orderFor_byte, ht]

/-- The state on which an order executes, built by the intake and the Order Engine (R2, R8, R143). -/
theorem arrived_eq (w : Since) (p : Port) (s : State) :
    bump p .ordersTaken (bump p .goodReceived (dropAssembly p (lapse w s))) = arrived w p s := by
  simp only [bump, dropAssembly, onPort_onPort, arrived]
  rfl

/-- The tests before execution let an admitted order pass (R144 to R149). -/
theorem admitted_passes (k : OrderCode) (args : List Byte) (w : Since) (p : Port) (h : OrderHead) (s : State)
    (ha : Admitted k args p h s) :
    ¬(p = .f ∧ s.settings.access = .closed) ∧ repeatOf p h (arrived w p s) = none ∧
      refusal p (some k) args (arrived w p s) = none := by
  obtain ⟨hg, hr, hsl, hl⟩ := ha
  refine ⟨?_, ?_, ?_⟩
  · rintro ⟨rfl, hc⟩
    rcases hr with hr | hr | hr
    · exact absurd hr (by decide)
    · rw [hc] at hr; exact absurd hr (by decide)
    · rw [hc] at hr; exact absurd hr.1 (by decide)
  · have : ((arrived w p s).port p).lastAnswer = (s.port p).lastAnswer := by simp [arrived, PortState.count]
    unfold repeatOf
    rw [this]
    cases hx : (s.port p).lastAnswer with
    | none => rfl
    | some x =>
      have := hl x hx
      exact if_neg (by simpa [LastAnswer.holds] using this)
  · have hg' : ¬((arrived w p s).gate = .halted ∧ k ≠ .status ∧ k ≠ .restart) := by
      simp only [arrived, onPort_gate, lapse_gate]
      rintro ⟨h1, h2, h3⟩
      rcases hg with hg | hg | hg
      · rw [hg] at h1; exact absurd h1 (by decide)
      · exact h2 hg
      · exact h3 hg
    have hr' : hasRights p (arrived w p s).settings.access (k.cls args) = true := by
      simp only [arrived, onPort_settings, lapse_settings, hasRights]
      rcases hr with rfl | hr | ⟨hr, hr' | hr'⟩
      · rfl
      · simp [hr]
      · simp [hr']
      · simp [hr']
    have hs' : slotServes (arrived w p s).slot.state k (k.cls args) = true := by
      simp only [arrived, onPort_slot, lapse_slot]
      rcases hsl with hsl | ⟨hsl, hc⟩ | ⟨hsl, hc⟩
      · rw [hsl]; rfl
      · rw [hsl]; simpa [slotServes] using hc
      · rw [hsl]; simpa [slotServes] using hc
    simp only [refusal, if_neg hg', hr', hs', Bool.not_true, if_false, Bool.false_eq_true]

/-- A delivered order is executed on the state it arrived in when the tests before execution let it pass (R143 to R150). -/
theorem orderRow_admitted (k : OrderCode) (w : Since) (p : Port) (h : OrderHead) (args : List Byte) (s : State)
    (hh : Heard p h s) (ha : Admitted k args p h s) :
    orderRow k w p h args s = .next (concludeOrder p h k.byte (runOrder k p h args (arrived w p s))) := by
  obtain ⟨hp, hr, ht⟩ := admitted_passes k args w p h s ha
  have hp' : ¬(p = .f ∧ (bump p .goodReceived (dropAssembly p (lapse w s))).settings.access = .closed) := by
    simpa [bump, dropAssembly] using hp
  rw [← arrived_eq] at hr ht
  rw [orderRow, orderEnd_heard w p h _ s hh, takeOrder_runs p h k args _ hp' hr ht, arrived_eq]

/-- An answer other than the DONE answer to RESTART, by the cases of R15, R153 and R158. -/
theorem answerOrder_replied (p : Port) (h : OrderHead) (code : Byte) (status : Status) (detail : Half) (data : List Byte)
    (s : State) (hc : ¬(code = OrderCode.restart.byte ∧ status = .done)) :
    Replied p h code status detail data (storable code status) s (answerOrder p h code status detail data s) := by
  have e : answerOrder p h code status detail data s =
      offer p .answersDropped (answerTo h (answerOf code status detail data s) s)
        (if storable code status then storeAnswer p h.source h.tag (answerOf code status detail data s) s else s) := by
    simp only [answerOrder, if_neg hc, sendAnswer]
    split <;> rfl
  rw [e]
  cases storable code status
  · simp only [Bool.false_eq_true, if_false, Replied]
    refine ⟨by simp [offer_port], ?_⟩
    rw [offer_port, port_setPort_same]
    exact offer_placed _ _ _ _ _
  · simp only [if_true, Replied]
    refine ⟨by simp [offer_port, storeAnswer, State.onPort], ?_⟩
    rw [offer_port, port_setPort_same]
    simp only [storeAnswer, port_onPort_same, onPort_now, onPort_sampled]
    exact offer_placed _ _ _ _ _

/-- Every order's row is the frame end that delivers its code. -/
theorem exec_orderInstr (k : OrderCode) (w : Since) (p : Port) (h : OrderHead) (args : List Byte) (s : State) :
    exec (orderInstr k w p h args) s = orderRow k w p h args s := by
  cases k <;> rfl

/-- An admitted order whose execution comes to an answer is answered with it (R150 to R153, R158). -/
theorem order_answers (k : OrderCode) (w : Since) (p : Port) (h : OrderHead) (args : List Byte) (s : State)
    (hh : Heard p h s) (ha : Admitted k args p h s) {status : Status} {detail : Half} {data : List Byte} {v : State}
    (hr : runOrder k p h args (arrived w p s) = .answered status detail data v)
    (hn : ¬(k.byte = OrderCode.restart.byte ∧ status = .done)) :
    Answers (orderInstr k w p h args) s p h k.byte status detail data (storable k.byte status) v :=
  ⟨_, by rw [exec_orderInstr, orderRow_admitted k w p h args s hh ha, hr]; rfl, answerOrder_replied p h k.byte status detail data v hn⟩

/-- An admitted order whose execution reads a wrong check code ends at the halt (R156). -/
theorem order_halts (k : OrderCode) (w : Since) (p : Port) (h : OrderHead) (args : List Byte) (s : State)
    (hh : Heard p h s) (ha : Admitted k args p h s) {fault : GateFault} {v : State}
    (hr : runOrder k p h args (arrived w p s) = .halts fault v) :
    exec (orderInstr k w p h args) s = .next (haltOn fault v) := by
  rw [exec_orderInstr, orderRow_admitted k w p h args s hh ha, hr]
  rfl

end Sys2Proof.Laws
end

