-- ==== Sys2Proof/Laws/Decisions.lean ====
section
/-! SUPPORT. Laws/Decisions.lean: how a frame end comes to a forward decision, at a port that receives and at one just lost, and
what the lookup finds, in the terms of Safety.lean; what a line loss leaves of the tracker. -/

namespace Sys2Proof.Laws

open Sys2Proof.Machine Sys2Proof.Safety

/-! ## Intake -/

/-- The third intake check as `WellAddressed` says it (R7). -/
theorem illAddressed_eq_false (station : Byte) (t : Telegram) : illAddressed station t = false ↔ WellAddressed station t := by
  have h255 : t.dest.toNat = 255 ↔ t.dest = 255 := by rw [← BitVec.toNat_inj]; rfl
  simp only [illAddressed, sourceByteOk, destByteOk, WellAddressed, Bool.or_eq_false_iff, Bool.not_eq_false', Bool.and_eq_true,
    Bool.or_eq_true, decide_eq_true_eq, Bool.and_eq_false_iff, decide_eq_false_iff_not, h255]
  constructor
  · rintro ⟨⟨⟨h1, h2⟩, h3⟩, h4⟩
    refine ⟨h1.1, h1.2, h4, ?_⟩
    rcases h2 with h2 | h2
    · exact .inl h2
    · exact .inr ⟨h2, h3.resolve_left (fun h => h h2)⟩
  · rintro ⟨h1, h2, h3, h4 | h4⟩
    · exact ⟨⟨⟨⟨h1, h2⟩, .inl h4⟩, .inl fun hd => by rw [← h255] at hd; omega⟩, h3⟩
    · exact ⟨⟨⟨⟨h1, h2⟩, .inr h4.1⟩, .inr h4.2⟩, h3⟩

/-- One count and the assembly handed over, in either order. -/
theorem bump_dropAssembly (p : Port) (k : PortCounter) (s : State) :
    bump p k (dropAssembly p s) = s.onPort p fun q => { q.count k 1 with assembly := none } := by
  simp only [bump, dropAssembly, onPort_onPort]; rfl

/-- A frame end at a port that receives and assembles a frame hands it to intake (R2). -/
theorem frameEnd_receiving (w : Since) (p : Port) (rest : List Byte) (s : State) (a : Assembly) (hr : receiving p s = true)
    (ha : (s.port p).assembly = some a) :
    exec (.frameEnd w p rest) s = .next (intake p (a.pushAll rest) (dropAssembly p (lapse w s))) := by
  simp only [exec, execFrameEnd, frameEnd, receiving_lapse, hr, lapse_port, ha]

/-- A frame that carries a telegram comes to the last three intake checks (R5, R6). -/
theorem frameEnd_framed (w : Since) (p : Port) (rest : List Byte) (s : State) (t : Telegram) (hr : receiving p s = true)
    (hf : Framed p rest s t) : exec (.frameEnd w p rest) s = .next (intakeTelegram p t (dropAssembly p (lapse w s))) := by
  obtain ⟨a, ha, hc, ht⟩ := hf
  rw [frameEnd_receiving w p rest s a hr ha, intake, hc, ht]; rfl

/-! ## The lookup -/

/-- The four conditions of an entry, as `Meets` says them (R23). -/
theorem meets_iff (e : RuleEntry) (d : Direction) (t : Telegram) : e.meets d t = true ↔ Meets e d t := by
  simp only [RuleEntry.meets, Meets, inRange, Bool.and_eq_true, decide_eq_true_eq, BitVec.le_def]
  cases d <;> simp [RuleEntry.admits] <;> tauto

/-- The lookup's test of an entry, as `TakesAt` says it (R29). -/
theorem takes_iff (bank : RuleBank) (d : Direction) (t : Telegram) (i : RuleIndex) :
    (bank[i].item.inUse && bank[i].item.meets d t) = true ↔ TakesAt bank d t i := by
  simp only [Bool.and_eq_true, meets_iff, TakesAt]

/-- The lookup goes past entries that are sound and do not take the telegram (R29). -/
theorem lookupIn_skip (bank : RuleBank) (d : Direction) (t : Telegram) (xs ys : List RuleIndex)
    (h : ∀ j ∈ xs, bank[j].sound = true ∧ ¬TakesAt bank d t j) : lookupIn bank d t (xs ++ ys) = lookupIn bank d t ys := by
  induction xs with
  | nil => rfl
  | cons a xs ih =>
    obtain ⟨h1, h2⟩ := h a (by simp)
    rw [List.cons_append, lookupIn, if_pos h1, if_neg (by rw [takes_iff]; exact h2)]
    exact ih fun j hj => h j (by simp [hj])

/-- A matching rule comes after entries that are sound and do not take the telegram (R29). -/
theorem lookupIn_rule (bank : RuleBank) (d : Direction) (t : Telegram) (i : RuleIndex) (e : RuleEntry) (xs : List RuleIndex)
    (h : lookupIn bank d t xs = .rule i e) :
    bank[i].sound = true ∧ TakesAt bank d t i ∧ bank[i].item = e ∧
      ∃ before after, xs = before ++ i :: after ∧ ∀ j ∈ before, bank[j].sound = true ∧ ¬TakesAt bank d t j := by
  induction xs with
  | nil => cases h
  | cons a xs ih =>
    rw [lookupIn] at h
    by_cases hs : bank[a].sound = true
    · rw [if_pos hs] at h
      by_cases ht : TakesAt bank d t a
      · rw [if_pos ((takes_iff ..).2 ht)] at h
        cases h
        exact ⟨hs, ht, rfl, [], xs, rfl, fun _ hj => absurd hj List.not_mem_nil⟩
      · rw [if_neg (by rw [takes_iff]; exact ht)] at h
        obtain ⟨h1, h2, h3, before, after, h4, h5⟩ := ih h
        exact ⟨h1, h2, h3, a :: before, after, by rw [h4]; rfl, List.forall_mem_cons.2 ⟨⟨hs, ht⟩, h5⟩⟩
    · rw [if_neg hs] at h; cases h

/-- The rule indexes in ascending order, split at one of them. -/
theorem finRange_split (i : RuleIndex) :
    ∃ xs ys : List RuleIndex, List.finRange 128 = xs ++ i :: ys ∧ ∀ j ∈ xs, j.val < i.val := by
  obtain ⟨xs, ys, h⟩ := List.append_of_mem (List.mem_finRange i)
  have hp := List.pairwise_lt_finRange 128
  rw [h, List.pairwise_append] at hp
  exact ⟨xs, ys, h, fun j hj => hp.2.2 j hj i (by simp)⟩

/-- The lookup finds a rule exactly when it is the first that takes the telegram and every entry up to it is sound (R28, R29). -/
theorem lookup_rule_iff (bank : RuleBank) (d : Direction) (t : Telegram) (i : RuleIndex) (e : RuleEntry) :
    lookup bank d t = .rule i e ↔
      PassedBelow bank d t i.val ∧ bank[i].sound = true ∧ TakesAt bank d t i ∧ bank[i].item = e := by
  constructor
  · intro h
    obtain ⟨h1, h2, h3, before, after, h4, h5⟩ := lookupIn_rule bank d t i e _ h
    refine ⟨fun j hj => ?_, h1, h2, h3⟩
    have hp := List.pairwise_lt_finRange 128
    rw [h4, List.pairwise_append, List.pairwise_cons] at hp
    have hm := List.mem_finRange j
    rw [h4, List.mem_append, List.mem_cons] at hm
    rcases hm with hm | rfl | hm
    · exact h5 j hm
    · omega
    · exact absurd hj (Nat.lt_asymm (hp.2.1.1 j hm))
  · rintro ⟨h1, h2, h3, rfl⟩
    obtain ⟨xs, ys, hx, hlt⟩ := finRange_split i
    rw [lookup, hx, lookupIn_skip _ _ _ _ _ fun j hj => h1 j (hlt j hj), lookupIn, if_pos h2, if_pos ((takes_iff ..).2 h3)]

/-- The lookup comes to the direction default when every entry is sound and none takes the telegram (R29, R30). -/
theorem lookup_byDefault (bank : RuleBank) (d : Direction) (t : Telegram) (h : PassedBelow bank d t 128) :
    lookup bank d t = .byDefault := by
  have := lookupIn_skip bank d t (List.finRange 128) [] fun j _ => h j j.isLt
  rw [List.append_nil] at this
  rw [lookup, this]; rfl

/-- The tracker is asked about a REPLY exactly under a TRACK rule (R24). -/
theorem asksTracker_iff (p : Port) (t : Telegram) (s : State) (hk : t.kind = .reply) :
    asksTracker p t s = true ↔ ∃ i e, Treated s p t i e ∧ e.action = .track := by
  have hdefault : (defaultEntry s.settings p.direction).action ≠ .track := by
    simp only [defaultEntry]
    cases p.direction
    · cases s.settings.actionDown <;> simp [DefaultAction.action]
    · cases s.settings.actionUp <;> simp [DefaultAction.action]
  constructor
  · intro h
    unfold asksTracker at h
    split at h
    · rename_i i e hl
      refine ⟨i, e, .inl ((lookup_rule_iff ..).1 hl), ?_⟩
      simp only [ruleTreatment] at h
      split at h
      · rename_i ha; exact ha.1
      · cases h
    · cases h
  · rintro ⟨i, e, hl | ⟨-, rfl⟩, ha⟩
    · simp only [asksTracker, (lookup_rule_iff ..).2 hl, ruleTreatment, ha, hk]; rfl
    · exact absurd ha hdefault

/-! ## Frame ends and decisions -/

/-- A decision is taken in the banks and under the settings that the lapse left. -/
theorem treated_received (w : Since) (p : Port) (s : State) (t : Telegram) (i : RuleIndex) (e : RuleEntry) :
    Treated (received w p s) p t i e ↔ Treated (lapse w s) p t i e := by
  simp only [Treated, received, onPort_bank, onPort_activeBank, onPort_settings]

/-- R65 has a telegram decided at a port just lost exactly as `FramedAtLoss` and `ForClassifier` say (log entry 24). -/
theorem decidedAfterLoss_iff (w : Since) (p : Port) (s : State) (t : Telegram) :
    decidedAfterLoss p t (lapse w s) = true ↔
      t.kind = .reply ∧ ForClassifier s t ∧ ∃ i e, Treated (received w p s) p t i e ∧ e.action = .track := by
  simp only [treated_received, decidedAfterLoss, ForClassifier, Bool.and_eq_true, decide_eq_true_eq, Bool.not_eq_true',
    illAddressed_eq_false, lapse_gate, lapse_station]
  constructor
  · rintro ⟨⟨⟨⟨⟨h1, h2⟩, h3⟩, h4⟩, h5⟩, h6⟩
    exact ⟨h2, ⟨h1, h3, h4, h5⟩, (asksTracker_iff _ _ _ h2).1 h6⟩
  · rintro ⟨h2, ⟨h1, h3, h4, h5⟩, h6⟩
    exact ⟨⟨⟨⟨⟨h1, h2⟩, h3⟩, h4⟩, h5⟩, (asksTracker_iff _ _ _ h2).2 h6⟩

/-- At a port just lost the frame end hands over what the loss took (R65). -/
theorem lostNow_eq_some (w : Since) (p : Port) (s : State) (a : Assembly) :
    lostNow p (lapse w s) = some a ↔ (s.port p).line = .down ∧ (s.port p).assembly = none ∧
      ∃ x, (s.port p).lostFrame = some x ∧ x.moment = s.now + w.elapsed ∧ x.frame = a := by
  simp only [lostNow, lapse_port, lapse_now]
  split
  · rename_i x h1 h2 h3
    simp [h1, h2, h3]
  · rename_i h
    simp only [reduceCtorEq, false_iff]
    rintro ⟨h1, h2, x, h3, -⟩
    exact h x h1 h2 h3

/-- A port whose line is DOWN does not receive (R12). -/
theorem receiving_down (p : Port) (s : State) (h : (s.port p).line = .down) : receiving p s = false := by
  simp [receiving, h]

/-- A frame end where no frame is under way is one at a port just lost, or nothing (R65; log entries 7 and 24). -/
theorem frameEnd_quiet (w : Since) (p : Port) (rest : List Byte) (s : State)
    (h : receiving p s = false ∨ (s.port p).assembly = none) :
    exec (.frameEnd w p rest) s = .next
      (match lostNow p (lapse w s) with
        | some a => frameEndAfterLoss p (a.pushAll rest) (lapse w s)
        | none => lapse w s) := by
  simp only [exec, execFrameEnd, frameEnd, receiving_lapse, lapse_port]
  generalize receiving p s = heard at h ⊢
  generalize (s.port p).assembly = frame at h ⊢
  rcases h with rfl | rfl
  · cases frame <;> rfl
  · cases heard <;> rfl

/-- Every telegram that crosses comes to its decision in the state `received`, at a port that receives (R2, R5 to R9) and at one
just lost (R65). -/
theorem crosses_classified (w : Since) (p : Port) (rest : List Byte) (s : State) (t : Telegram) (h : Crosses w p rest s t) :
    exec (.frameEnd w p rest) s = .next (classify p t (received w p s)) := by
  obtain ⟨⟨hr, hf⟩ | ⟨hl, ha, hk, ⟨x, hx, hm, hc, ht⟩, hi⟩, hc'⟩ := h
  · obtain ⟨hg, hw, hd, hr'⟩ := hc'
    have hup : (s.port p).line = .up := by simp only [receiving, Bool.and_eq_true, decide_eq_true_eq] at hr; exact hr.2
    have hst : (dropAssembly p (lapse w s)).station = s.station := by simp [dropAssembly]
    have hgate : (dropAssembly p (lapse w s)).gate = s.gate := by simp [dropAssembly]
    rw [frameEnd_framed w p rest s t hr hf, intakeTelegram, hst, (illAddressed_eq_false ..).2 hw, if_neg Bool.false_ne_true,
      if_neg hd, if_neg hr', hgate, if_neg (by rw [hg]; decide), bump_dropAssembly]
    simp only [received, State.onPort, lapse_port, hup]; rfl
  · rw [frameEnd_quiet w p rest s (.inr ha), (lostNow_eq_some w p s x.frame).2 ⟨hl, ha, x, hx, hm, rfl⟩]
    simp only [frameEndAfterLoss, hc, ht]
    rw [if_pos ((decidedAfterLoss_iff w p s t).2 ⟨hk, hc', hi⟩)]
    have : bump p .goodReceived (dropLostFrame p (lapse w s)) = received w p s := by
      simp only [bump, dropLostFrame, received, State.onPort, port_setPort_same, setPort_setPort, lapse_port, hl]
      congr 1
      simp [PortState.count, ha, hl]
    rw [this]

/-- A frame end where no frame is under way changes nothing but for the REPLY that R65 has decided (log entries 7 and 24). -/
theorem frameEnd_nothing (w : Since) (p : Port) (rest : List Byte) (s : State)
    (h : receiving p s = false ∨ (s.port p).assembly = none)
    (hn : ∀ t, ¬(FramedAtLoss w p rest s t ∧ ForClassifier s t)) : exec (.frameEnd w p rest) s = .next (lapse w s) := by
  rw [frameEnd_quiet w p rest s h]
  split
  · rename_i a hl
    obtain ⟨h1, h2, x, h3, h4, rfl⟩ := (lostNow_eq_some w p s a).1 hl
    unfold frameEndAfterLoss
    split
    · rename_i t hc ht
      rw [if_neg]
      intro hd
      obtain ⟨hk, hf, hi⟩ := (decidedAfterLoss_iff w p s t).1 hd
      exact hn t ⟨⟨h1, h2, hk, ⟨x, h3, h4, hc, ht⟩, hi⟩, hf⟩
    · rfl
  · rfl

/-! ## What a line loss leaves for a decision -/

/-- The end of an event that has emptied the tracker leaves it empty, whether or not the gate halts (R198). -/
theorem finish_empty (e : Course) (h : e.state.pet = [] ∧ e.state.ring = []) : e.finish.pet = [] ∧ e.finish.ring = [] := by
  unfold Course.finish
  split
  · exact h
  · rename_i fault _
    unfold haltOn
    split
    · cases hs : e.state.slot with
      | validating c => rw [enterHalted_commit fault _ c hs, endCommit_fields]; simp [clearForward]
      | idle => rw [enterHalted_noCommit fault _ (by rw [hs]; decide)]; simp [clearForward]
      | restarting q => rw [enterHalted_noCommit fault _ (by rw [hs]; simp [Slot.state])]; simp [clearForward]
    · exact h

/-- After a line loss the tracker holds no exchange and no key, whatever else the event came to (R64, R65). -/
theorem loseLine_empty (p : Port) (s : State) : (loseLine p s).pet = [] ∧ (loseLine p s).ring = [] := by
  have flushed := finish_empty (flush (some p.other)
    ((Course.of (s.onPort p (PortState.lose s.now))).tallyQueue .lineLost (s.port p).forwardLost))
    ⟨by rw [flush_fields], by rw [flush_fields]⟩
  simp only [loseLine]
  split
  · split
    · exact ⟨rfl, rfl⟩
    · exact flushed
  · exact flushed

end Sys2Proof.Laws
end

