-- ==== Sys2Proof/Laws/Ends.lean ====
section
/-! SUPPORT. Laws/Ends.lean: the ends that many commands share, in the terms of Safety.lean: the transmitter's take, the end of a
commit, the halt. -/

namespace Sys2Proof.Laws

open Sys2Proof.Machine Sys2Proof.Safety

/-- A transmitter's take touches its port alone (R17). -/
theorem take_takesAgain (p : Port) (u : State) : TakesAgain p u (take p u) := by
  refine ⟨by simp [take, State.onPort], ?_⟩
  simp only [take, port_onPort_same]
  exact portTake_takes _ _ _

/-- The record of a port plays no part in an offer. -/
theorem offer_setLast (now bt : Nat) (r : PortCounter) (t : Telegram) (q : PortState) (l : Option LastAnswer) :
    { q.offer now bt r t with lastAnswer := l } = ({ q with lastAnswer := l } : PortState).offer now bt r t := by
  unfold PortState.offer
  have : ({ q with lastAnswer := l } : PortState).hasRoom = q.hasRoom := rfl
  rw [this]
  split
  · simp only [PortState.take]
    split
    · cases q.localQ <;> simp
    · rfl
  · rfl

/-- The end of a commit (R99 to R101). -/
theorem endCommit_ended (c : CommitContext) (result : CommitResult) (detail : Half) (shown : GateState) (s : State) :
    Ended c result detail shown s (endCommit c result detail shown s) := by
  refine ⟨endCommit_fields c result detail shown s, ?_⟩
  generalize ha : ({ code := 0x08, status := result.status, gate := shown, slot := .idle, generation := s.generation,
                     detail := detail, data := [] } : Answer) = a
  have e : completionRecord c result a (s.port c.port).lastAnswer =
      (match (s.port c.port).lastAnswer with
        | some x =>
          if x.requester = c.requester ∧ x.tag = c.tag then
            (if result = .faulted then none else some { requester := c.requester, tag := c.tag, answer := a })
          else some x
        | none => none) := by
    cases (s.port c.port).lastAnswer with
    | none => rfl
    | some x => simp [completionRecord, LastAnswer.holds]
  have key : (endCommit c result detail shown s).port c.port =
      PortState.offer s.now (byteTime s.sampled.rts) .answersDropped
        (answerTo { source := c.requester, tag := c.tag } a s)
        { s.port c.port with lastAnswer := completionRecord c result a (s.port c.port).lastAnswer } := by
    subst ha
    simp only [endCommit, sendAnswer, offer_port, port_onPort_same, port_setPort_same, offer_lastAnswer]
    rw [offer_setLast]
    cases c.port <;> rfl
  rw [key, e]
  exact offer_placed _ _ _ _ _

/-- Entering HALTED (R105, R198). -/
theorem enterHalted_halts (fault : GateFault) (u : State) : Halts fault u (enterHalted fault u) := by
  have e : clearForward .c (clearForward .f { u with
      gate := .halted, fault := some fault, holdDown := true, holdUp := true, pet := [], ring := [] }) = haltedAt fault u := by
    simp [clearForward, State.onPort, State.setPort, haltedAt]
  cases hs : u.slot with
  | validating c =>
    simp only [Halts, hs]
    rw [enterHalted_commit fault u c hs, e]
    exact endCommit_ended _ _ _ _ _
  | idle =>
    simp only [Halts, hs]
    rw [enterHalted_noCommit fault u (by rw [hs]; decide), e]
  | restarting r =>
    simp only [Halts, hs]
    rw [enterHalted_noCommit fault u (by rw [hs]; simp [Slot.state]), e]

/-- A wrong check code halts a SERVING gate (R197). -/
theorem haltOn_halts (fault : GateFault) (u : State) (h : u.gate = .serving) : Halts fault u (haltOn fault u) := by
  rw [haltOn_serving fault u h]
  exact enterHalted_halts fault u

end Sys2Proof.Laws
end

