-- ==== Sys2Proof/Laws/Formats.lean ====
section
/-! SUPPORT. Laws/Formats.lean: bytes and the quantities they spell, spans of indices, group sets. -/

namespace Sys2Proof.Laws

open Sys2Proof.Machine

/-! ## Quantities and their bytes -/

@[simp] theorem halfOf_bytes (x : Half) : halfOf (x.extractLsb' 8 8) (x.extractLsb' 0 8) = x := by
  have h := BitVec.extractLsb'_append_extractLsb'_eq_extractLsb' (x := x) (start₂ := 8) (len₂ := 8) (start₁ := 0) (len₁ := 8) rfl
  unfold halfOf
  erw [h]
  simp

@[simp] theorem countOf_bytes (x : Count) :
    countOf (x.extractLsb' 24 8) (x.extractLsb' 16 8) (x.extractLsb' 8 8) (x.extractLsb' 0 8) = x := by
  have h1 := BitVec.extractLsb'_append_extractLsb'_eq_extractLsb' (x := x) (start₂ := 24) (len₂ := 8) (start₁ := 16) (len₁ := 8) rfl
  have h2 := BitVec.extractLsb'_append_extractLsb'_eq_extractLsb' (x := x) (start₂ := 16) (len₂ := 16) (start₁ := 8) (len₁ := 8) rfl
  have h3 := BitVec.extractLsb'_append_extractLsb'_eq_extractLsb' (x := x) (start₂ := 8) (len₂ := 24) (start₁ := 0) (len₁ := 8) rfl
  unfold countOf
  erw [h1, h2, h3]
  simp

theorem halfOf_toNat (hi lo : Byte) : (halfOf hi lo).toNat = hi.toNat * 256 + lo.toNat := by
  have := lo.isLt
  simp only [halfOf, BitVec.toNat_append]
  rw [Nat.shiftLeft_eq, Nat.mul_comm, ← Nat.two_pow_add_eq_or_of_lt (by simpa using this)]

@[simp] theorem halfBytes_halfOf (hi lo : Byte) : halfBytes (halfOf hi lo) = [hi, lo] := by
  have h1 := hi.isLt
  have h2 := lo.isLt
  simp only [halfBytes, List.cons.injEq, and_true]
  constructor <;> apply BitVec.eq_of_toNat_eq <;>
    rw [BitVec.extractLsb'_toNat, halfOf_toNat, Nat.shiftRight_eq_div_pow] <;> omega

theorem halfBytes_inj {x y : Half} (h : halfBytes x = halfBytes y) : x = y := by
  simp only [halfBytes, List.cons.injEq, and_true] at h
  rw [← halfOf_bytes x, ← halfOf_bytes y, h.1, h.2]

@[simp] theorem byteOf_toNat (n : Nat) : (byteOf n).toNat = n % 256 := by simp [byteOf]

theorem halfOfNat_zero : halfOfNat 0 = 0 := rfl

/-! ## Spans (R169, R173, R181) -/

theorem range_filter (n a c : Nat) (h : a + c ≤ n) :
    (List.range n).filter (fun i => decide (a ≤ i) && decide (i < a + c)) = ((List.range n).drop a).take c := by
  obtain ⟨m, rfl⟩ := Nat.exists_eq_add_of_le h
  have e : List.range (a + c + m) = List.range' 0 a ++ (List.range' a c ++ List.range' (a + c) m) := by
    rw [List.range_eq_range', Nat.add_assoc, ← List.range'_append_1, ← List.range'_append_1, Nat.zero_add]
  rw [e, List.filter_append, List.filter_append, List.drop_left' (by simp), List.take_left' (by simp)]
  rw [List.filter_eq_nil_iff.2, List.filter_eq_self.2, List.filter_eq_nil_iff.2]
  · simp
  all_goals intro i hi; simp [List.mem_range'_1] at hi ⊢; omega

/-- The indices of a span are the `count` ones from the first on. -/
theorem spanIndices_eq {n : Nat} (first count : Nat) (h : first + count ≤ n) :
    spanIndices n first count = ((List.finRange n).drop first).take count := by
  apply List.map_injective_iff.2 Fin.val_injective
  rw [List.map_take, List.map_drop, List.map_coe_finRange_eq_range, ← range_filter n first count h, ← List.map_coe_finRange_eq_range,
    List.filter_map]
  rfl

theorem mem_spanIndices {n : Nat} (first count : Nat) (i : Fin n) :
    i ∈ spanIndices n first count ↔ first ≤ i.val ∧ i.val < first + count := by
  simp [spanIndices]

/-- What a span of a table gives is what the same stretch of its list gives. -/
theorem span_flatMap {α : Type} {n : Nat} (v : Vector α n) (f : α → List Byte) (first count : Nat) (h : first + count ≤ n) :
    ((spanIndices n first count).flatMap fun i => f v[i]) = ((v.toList.drop first).take count).flatMap f := by
  rw [spanIndices_eq first count h]
  have : v.toList = (List.finRange n).map fun i => v[i] := by
    apply List.ext_getElem <;> simp
  rw [this, ← List.map_drop, ← List.map_take, List.flatMap_map]

/-! ## Group sets (R205) -/

/-- A group is in the set of the groups a test admits exactly when the test admits it. -/
theorem groupSetOf_bit (f : Group → Bool) (g : Group) : (groupSetOf f).getLsbD g.val = f g := by
  have key : ∀ (xs : List Group) (acc : GroupSet),
      (xs.foldl (fun acc g => if f g then acc ||| (1#32 <<< g.val) else acc) acc).getLsbD g.val =
        (acc.getLsbD g.val || (decide (g ∈ xs) && f g)) := by
    intro xs
    induction xs with
    | nil => simp
    | cons x xs ih =>
      intro acc
      rw [List.foldl_cons, ih]
      by_cases hx : g = x
      · subst hx
        cases hf : f g <;> simp
      · have hne : x.val ≠ g.val := fun h => hx (Fin.ext h.symm)
        have hb : (1#32 <<< x.val).getLsbD g.val = false := by
          simp only [BitVec.getLsbD_shiftLeft, BitVec.getLsbD_one]
          have := g.isLt
          by_cases hlt : g.val < x.val
          · simp [hlt]
          · have : g.val - x.val ≠ 0 := by omega
            simp [this]
        cases f x
        · simp [hx]
        · rw [if_pos rfl, BitVec.getLsbD_or, hb]
          simp [hx]
  have := key (List.finRange 32) 0
  simpa [groupSetOf] using this

end Sys2Proof.Laws
end

