-- ==== Sys2Proof/Laws/PerInstr.lean ====
section
/-! SUPPORT. Laws/PerInstr.lean: what well-formedness says of a command's operands, command by command. -/

namespace Sys2Proof.Laws

open Sys2Proof.Machine

/-- The order that a command delivers, as it stands in the telegram: who sends it, the payload's bytes, and the order of the table
that it is, none for an unknown one. -/
def orderParts : Instr → Option (OrderHead × List Byte × Option OrderCode)
  | .frameEnd _ _ _ => none
  | .transmitCompletion _ _ => none
  | .lineLoss _ _ => none
  | .lineReturn _ _ => none
  | .deadlineExpiry _ _ => none
  | .periodExpiry _ _ => none
  | .validationComplete _ => none
  | .restartTimeLimit _ => none
  | .powerOn _ => none
  | .resetAsserted _ => none
  | .startingEnd _ => none
  | .unknownOrder _ _ h payload => some (h, payload, none)
  | .status _ _ h args => some (h, OrderCode.status.byte :: args, some .status)
  | .configRead _ _ h args => some (h, OrderCode.configRead.byte :: args, some .configRead)
  | .configWrite _ _ h args => some (h, OrderCode.configWrite.byte :: args, some .configWrite)
  | .rulesRead _ _ h args => some (h, OrderCode.rulesRead.byte :: args, some .rulesRead)
  | .stageWrite _ _ h args => some (h, OrderCode.stageWrite.byte :: args, some .stageWrite)
  | .stageClear _ _ h args => some (h, OrderCode.stageClear.byte :: args, some .stageClear)
  | .stageClone _ _ h args => some (h, OrderCode.stageClone.byte :: args, some .stageClone)
  | .commit _ _ h args => some (h, OrderCode.commit.byte :: args, some .commit)
  | .abandon _ _ h args => some (h, OrderCode.abandon.byte :: args, some .abandon)
  | .hold _ _ h args => some (h, OrderCode.hold.byte :: args, some .hold)
  | .release _ _ h args => some (h, OrderCode.release.byte :: args, some .release)
  | .profileRead _ _ h args => some (h, OrderCode.profileRead.byte :: args, some .profileRead)
  | .profileWrite _ _ h args => some (h, OrderCode.profileWrite.byte :: args, some .profileWrite)
  | .exchangeList _ _ h args => some (h, OrderCode.exchangeList.byte :: args, some .exchangeList)
  | .exchangeFlush _ _ h args => some (h, OrderCode.exchangeFlush.byte :: args, some .exchangeFlush)
  | .snapshot _ _ h args => some (h, OrderCode.snapshot.byte :: args, some .snapshot)
  | .snapshotRead _ _ h args => some (h, OrderCode.snapshotRead.byte :: args, some .snapshotRead)
  | .tallyClear _ _ h args => some (h, OrderCode.tallyClear.byte :: args, some .tallyClear)
  | .portCounters _ _ h args => some (h, OrderCode.portCounters.byte :: args, some .portCounters)
  | .captureRead _ _ h args => some (h, OrderCode.captureRead.byte :: args, some .captureRead)
  | .captureClear _ _ h args => some (h, OrderCode.captureClear.byte :: args, some .captureClear)
  | .wordRead _ _ h args => some (h, OrderCode.wordRead.byte :: args, some .wordRead)
  | .wordWrite _ _ h args => some (h, OrderCode.wordWrite.byte :: args, some .wordWrite)
  | .restart _ _ h args => some (h, OrderCode.restart.byte :: args, some .restart)
  | .signalChange _ _ _ => none
  | .frameBegin _ _ _ => none

/-- A well-formed command that delivers an order delivers one that a line can carry and intake does not refuse: its source is a
station, its payload at most 240 bytes, and its order code is that of its row, or of no row for an unknown order (R3, R7, R205). -/
def OperandsFit.Statement (i : Instr) : Prop :=
  i.wellFormed = true → ∀ h payload k, orderParts i = some (h, payload, k) →
    1 ≤ h.source.toNat ∧ h.source.toNat ≤ 239 ∧ payload.length ≤ 240 ∧ orderFor (payload.headD 0) = k

theorem stationOk_range {x : Byte} (h : stationOk x = true) : 1 ≤ x.toNat ∧ x.toNat ≤ 239 := by
  simpa [stationOk] using h

/-- A code outside the table of R205 belongs to no order. -/
theorem orderFor_unassigned : ∀ x : Byte, orderCodeAssigned x = false → orderFor x = none := by
  decide +kernel

/-- The operands of an order row. -/
theorem orderOk_fits {h : OrderHead} {args payload : List Byte} {k : OrderCode} (ok : orderOk h args = true)
    (hp : payload = k.byte :: args) :
    1 ≤ h.source.toNat ∧ h.source.toNat ≤ 239 ∧ payload.length ≤ 240 ∧ orderFor (payload.headD 0) = some k := by
  subst hp
  simp only [orderOk, Bool.and_eq_true, decide_eq_true_eq] at ok
  refine ⟨(stationOk_range ok.1).1, (stationOk_range ok.1).2, ?_, orderFor_byte k⟩
  simp only [List.length_cons]
  omega

/-- The statement of an order row. -/
theorem fits_of_order {i : Instr} {h : OrderHead} {args : List Byte} {k : OrderCode} (hw : i.wellFormed = orderOk h args)
    (hp : orderParts i = some (h, k.byte :: args, some k)) : OperandsFit.Statement i := by
  intro ok h' payload k' e
  rw [hp] at e
  cases e
  exact orderOk_fits (hw ▸ ok) rfl

/-- The statement of a row that delivers no order. -/
theorem fits_of_event {i : Instr} (hp : orderParts i = none) : OperandsFit.Statement i := by
  intro _ h payload k e
  rw [hp] at e
  cases e

theorem OperandsFit.frameEnd (w : Since) (p : Port) (rest : List Byte) :
    OperandsFit.Statement (.frameEnd w p rest) :=
  fits_of_event rfl

theorem OperandsFit.transmitCompletion (w : Since) (p : Port) :
    OperandsFit.Statement (.transmitCompletion w p) :=
  fits_of_event rfl

theorem OperandsFit.lineLoss (w : Since) (p : Port) :
    OperandsFit.Statement (.lineLoss w p) :=
  fits_of_event rfl

theorem OperandsFit.lineReturn (w : Since) (p : Port) :
    OperandsFit.Statement (.lineReturn w p) :=
  fits_of_event rfl

theorem OperandsFit.deadlineExpiry (w : Since) (k : Key) :
    OperandsFit.Statement (.deadlineExpiry w k) :=
  fits_of_event rfl

theorem OperandsFit.periodExpiry (w : Since) (n : Fin 16) :
    OperandsFit.Statement (.periodExpiry w n) :=
  fits_of_event rfl

theorem OperandsFit.validationComplete (w : Since) :
    OperandsFit.Statement (.validationComplete w) :=
  fits_of_event rfl

theorem OperandsFit.restartTimeLimit (w : Since) :
    OperandsFit.Statement (.restartTimeLimit w) :=
  fits_of_event rfl

theorem OperandsFit.powerOn (w : Since) :
    OperandsFit.Statement (.powerOn w) :=
  fits_of_event rfl

theorem OperandsFit.resetAsserted (w : Since) :
    OperandsFit.Statement (.resetAsserted w) :=
  fits_of_event rfl

theorem OperandsFit.startingEnd (w : Since) :
    OperandsFit.Statement (.startingEnd w) :=
  fits_of_event rfl

theorem OperandsFit.unknownOrder (w : Since) (p : Port) (h : OrderHead) (payload : List Byte) :
    OperandsFit.Statement (.unknownOrder w p h payload) := by
  intro ok h' payload' k' e
  cases e
  simp only [Instr.wellFormed, Bool.and_eq_true, decide_eq_true_eq] at ok
  refine ⟨(stationOk_range ok.1.1).1, (stationOk_range ok.1.1).2, ok.1.2, ?_⟩
  cases payload with
  | nil => rfl
  | cons x xs => exact orderFor_unassigned x (by simpa using ok.2)

theorem OperandsFit.status (w : Since) (p : Port) (h : OrderHead) (args : List Byte) :
    OperandsFit.Statement (.status w p h args) :=
  fits_of_order rfl rfl

theorem OperandsFit.configRead (w : Since) (p : Port) (h : OrderHead) (args : List Byte) :
    OperandsFit.Statement (.configRead w p h args) :=
  fits_of_order rfl rfl

theorem OperandsFit.configWrite (w : Since) (p : Port) (h : OrderHead) (args : List Byte) :
    OperandsFit.Statement (.configWrite w p h args) :=
  fits_of_order rfl rfl

theorem OperandsFit.rulesRead (w : Since) (p : Port) (h : OrderHead) (args : List Byte) :
    OperandsFit.Statement (.rulesRead w p h args) :=
  fits_of_order rfl rfl

theorem OperandsFit.stageWrite (w : Since) (p : Port) (h : OrderHead) (args : List Byte) :
    OperandsFit.Statement (.stageWrite w p h args) :=
  fits_of_order rfl rfl

theorem OperandsFit.stageClear (w : Since) (p : Port) (h : OrderHead) (args : List Byte) :
    OperandsFit.Statement (.stageClear w p h args) :=
  fits_of_order rfl rfl

theorem OperandsFit.stageClone (w : Since) (p : Port) (h : OrderHead) (args : List Byte) :
    OperandsFit.Statement (.stageClone w p h args) :=
  fits_of_order rfl rfl

theorem OperandsFit.commit (w : Since) (p : Port) (h : OrderHead) (args : List Byte) :
    OperandsFit.Statement (.commit w p h args) :=
  fits_of_order rfl rfl

theorem OperandsFit.abandon (w : Since) (p : Port) (h : OrderHead) (args : List Byte) :
    OperandsFit.Statement (.abandon w p h args) :=
  fits_of_order rfl rfl

theorem OperandsFit.hold (w : Since) (p : Port) (h : OrderHead) (args : List Byte) :
    OperandsFit.Statement (.hold w p h args) :=
  fits_of_order rfl rfl

theorem OperandsFit.release (w : Since) (p : Port) (h : OrderHead) (args : List Byte) :
    OperandsFit.Statement (.release w p h args) :=
  fits_of_order rfl rfl

theorem OperandsFit.profileRead (w : Since) (p : Port) (h : OrderHead) (args : List Byte) :
    OperandsFit.Statement (.profileRead w p h args) :=
  fits_of_order rfl rfl

theorem OperandsFit.profileWrite (w : Since) (p : Port) (h : OrderHead) (args : List Byte) :
    OperandsFit.Statement (.profileWrite w p h args) :=
  fits_of_order rfl rfl

theorem OperandsFit.exchangeList (w : Since) (p : Port) (h : OrderHead) (args : List Byte) :
    OperandsFit.Statement (.exchangeList w p h args) :=
  fits_of_order rfl rfl

theorem OperandsFit.exchangeFlush (w : Since) (p : Port) (h : OrderHead) (args : List Byte) :
    OperandsFit.Statement (.exchangeFlush w p h args) :=
  fits_of_order rfl rfl

theorem OperandsFit.snapshot (w : Since) (p : Port) (h : OrderHead) (args : List Byte) :
    OperandsFit.Statement (.snapshot w p h args) :=
  fits_of_order rfl rfl

theorem OperandsFit.snapshotRead (w : Since) (p : Port) (h : OrderHead) (args : List Byte) :
    OperandsFit.Statement (.snapshotRead w p h args) :=
  fits_of_order rfl rfl

theorem OperandsFit.tallyClear (w : Since) (p : Port) (h : OrderHead) (args : List Byte) :
    OperandsFit.Statement (.tallyClear w p h args) :=
  fits_of_order rfl rfl

theorem OperandsFit.portCounters (w : Since) (p : Port) (h : OrderHead) (args : List Byte) :
    OperandsFit.Statement (.portCounters w p h args) :=
  fits_of_order rfl rfl

theorem OperandsFit.captureRead (w : Since) (p : Port) (h : OrderHead) (args : List Byte) :
    OperandsFit.Statement (.captureRead w p h args) :=
  fits_of_order rfl rfl

theorem OperandsFit.captureClear (w : Since) (p : Port) (h : OrderHead) (args : List Byte) :
    OperandsFit.Statement (.captureClear w p h args) :=
  fits_of_order rfl rfl

theorem OperandsFit.wordRead (w : Since) (p : Port) (h : OrderHead) (args : List Byte) :
    OperandsFit.Statement (.wordRead w p h args) :=
  fits_of_order rfl rfl

theorem OperandsFit.wordWrite (w : Since) (p : Port) (h : OrderHead) (args : List Byte) :
    OperandsFit.Statement (.wordWrite w p h args) :=
  fits_of_order rfl rfl

theorem OperandsFit.restart (w : Since) (p : Port) (h : OrderHead) (args : List Byte) :
    OperandsFit.Statement (.restart w p h args) :=
  fits_of_order rfl rfl

theorem OperandsFit.signalChange (w : Since) (p : Port) (present : Bool) :
    OperandsFit.Statement (.signalChange w p present) :=
  fits_of_event rfl

theorem OperandsFit.frameBegin (w : Since) (p : Port) (first : Byte) :
    OperandsFit.Statement (.frameBegin w p first) :=
  fits_of_event rfl

end Sys2Proof.Laws
end

