-- ==== Sys2Proof/Laws/Tallies.lean ====
section
/-! SUPPORT. Laws/Tallies.lean: what the tallies of a removed queue, of a hold and of a flush come to when no check code is wrong,
and where the first wrong one ends them, said once for each group. -/

namespace Sys2Proof.Laws

open Sys2Proof.Machine Sys2Proof.Safety

@[simp] theorem raisedBy_zero (k : Counter) (x : Checked Counters) : raisedBy k 0 x = x := rfl

/-- A counter raised twice is raised by the sum (R112). -/
theorem raised_raised (k : Counter) (m n : Nat) (v : Counters) : raised k n (raised k m v) = raised k (m + n) v := by
  simp [raised, satAdd_satAdd]

/-- Raising a group once and then `n` times is raising it `n + 1` times. -/
theorem raisedBy_raisedBy (k : Counter) (m n : Nat) (x : Checked Counters) :
    raisedBy k n (raisedBy k m x) = raisedBy k (m + n) x := by
  unfold raisedBy
  by_cases hm : m = 0
  · simp [hm]
  · by_cases hn : n = 0
    · simp [hn]
    · rw [if_neg hn, if_neg hm, if_neg (by omega)]
      simp [Checked.fresh, raised_raised]

theorem raisedBy_sound (k : Counter) (n : Nat) (x : Checked Counters) (h : x.sound = true) : (raisedBy k n x).sound = true := by
  unfold raisedBy
  split <;> simp [h, Checked.fresh]

theorem addTo_one (k : Counter) (v : Counters) : addTo [(k, 1)] v = raised k 1 v := rfl

/-- One tally with no fault found and a sound group, whichever group it names or none (R112, R114). -/
theorem tally1_sound (group : Option Group) (k : Counter) (e : Course) (h : e.found = none) (hs : SoundGroup group e.state) :
    e.tally1 group k = { e with state := tallied group k 1 e.state } := by
  cases group with
  | none => exact tally_absent _ _
  | some g => exact tally_made g _ e h (hs g rfl)

/-- What one tally makes of each group. -/
theorem tallied_get (group : Option Group) (k : Counter) (u : State) (g : Group) :
    (tallied group k 1 u).tallies[g] = raisedBy k (if group = some g then 1 else 0) u.tallies[g] := by
  cases group with
  | none => rfl
  | some x =>
    simp only [tallied, Option.some.injEq, Fin.getElem_fin, Vector.getElem_set]
    by_cases hx : x = g
    · subst hx; simp [raisedBy]
    · rw [if_neg (fun h => hx (Fin.ext h)), if_neg hx]; rfl

theorem tallied_fields (group : Option Group) (k : Counter) (n : Nat) (u : State) :
    tallied group k n u = { u with tallies := (tallied group k n u).tallies } := by
  cases group <;> rfl

theorem tallied_sound (group : Option Group) (k : Counter) (u : State) (g : Option Group) (h : SoundGroup g u) :
    SoundGroup g (tallied group k 1 u) := by
  intro x hx
  rw [tallied_get]
  exact raisedBy_sound _ _ _ (h x hx)

/-- The tallies of a removed queue whose groups are all sound: each group's counter raised by the telegrams that carry it
(R13, R108, R112). -/
theorem tallyQueue_sound (k : Counter) (xs : List Forwarded) (e : Course) (h : e.found = none)
    (hs : ∀ x ∈ xs, SoundGroup x.group e.state) :
    (e.tallyQueue k xs).found = none ∧
      (e.tallyQueue k xs).state = { e.state with tallies := (e.tallyQueue k xs).state.tallies } ∧
      ∀ g : Group, (e.tallyQueue k xs).state.tallies[g] = raisedBy k (carrying Forwarded.group g xs) e.state.tallies[g] := by
  induction xs generalizing e with
  | nil => exact ⟨h, rfl, fun _ => rfl⟩
  | cons x xs ih =>
    have hx : e.tally1 x.group k = { e with state := tallied x.group k 1 e.state } :=
      tally1_sound x.group k e h (hs x (List.mem_cons_self))
    have hstep : e.tallyQueue k (x :: xs) = (e.tally1 x.group k).tallyQueue k xs := rfl
    obtain ⟨h1, _, h3⟩ := ih (e.tally1 x.group k) (by rw [hx]; exact h)
      (fun y hy => by rw [hx]; exact tallied_sound _ _ _ _ (hs y (List.mem_cons_of_mem _ hy)))
    refine ⟨by rw [hstep]; exact h1, tallyQueue_fields k (x :: xs) e, fun g => ?_⟩
    rw [hstep, h3 g, hx, tallied_get, raisedBy_raisedBy]
    congr 1
    simp only [carrying, List.countP_cons, decide_eq_true_eq]
    omega

/-- A flush that notifies no one, over sound entries and groups: each group's flushed raised by the entries that carry it (R62). -/
theorem flushEntries_silent (xs : List PetEntry) (e : Course) (h : e.found = none)
    (hx : ∀ x ∈ xs, e.state.petSound[x.slot] = true) (hs : ∀ x ∈ xs, SoundGroup x.group e.state) :
    (xs.foldl (flushEntry none) e).found = none ∧
      (xs.foldl (flushEntry none) e).state =
        { e.state with tallies := (xs.foldl (flushEntry none) e).state.tallies } ∧
      ∀ g : Group, (xs.foldl (flushEntry none) e).state.tallies[g] =
        raisedBy .flushed (carrying PetEntry.group g xs) e.state.tallies[g] := by
  induction xs generalizing e with
  | nil => exact ⟨h, rfl, fun _ => rfl⟩
  | cons x xs ih =>
    have hx1 : flushEntry none e x = { e with state := tallied x.group .flushed 1 e.state } := by
      have ht := tally1_sound x.group .flushed e h (hs x List.mem_cons_self)
      unfold flushEntry
      rw [if_neg (by simp [h]), if_pos (hx x List.mem_cons_self), ht]
      simp
    have hp : (tallied x.group .flushed 1 e.state).petSound = e.state.petSound := by rw [tallied_fields]
    obtain ⟨h1, h2, h3⟩ := ih { e with state := tallied x.group .flushed 1 e.state } h
      (fun y hy => by rw [hp]; exact hx y (List.mem_cons_of_mem _ hy))
      (fun y hy => tallied_sound _ _ _ _ (hs y (List.mem_cons_of_mem _ hy)))
    rw [List.foldl_cons, hx1]
    refine ⟨h1, ?_, fun g => ?_⟩
    · rw [h2]; dsimp only; rw [tallied_fields]
    · rw [h3 g, tallied_get, raisedBy_raisedBy]
      congr 1
      simp only [carrying, List.countP_cons, decide_eq_true_eq]
      omega

/-- A flush that notifies no one, over sound entries and groups (R62). -/
theorem flush_silent (e : Course) (h : e.found = none) (hx : ∀ x ∈ e.state.pet, e.state.petSound[x.slot] = true)
    (hs : ∀ x ∈ e.state.pet, SoundGroup x.group e.state) :
    (flush none e).found = none ∧
      (flush none e).state = { e.state with tallies := (flush none e).state.tallies, pet := [], ring := [] } ∧
      ∀ g : Group, (flush none e).state.tallies[g] =
        raisedBy .flushed (carrying PetEntry.group g e.state.pet) e.state.tallies[g] := by
  obtain ⟨h1, h2, h3⟩ := flushEntries_silent e.state.pet e h hx hs
  refine ⟨h1, ?_, h3⟩
  simp only [flush, Course.map]
  rw [h2]

/-- Once a fault has been found, a flush tallies and notifies nothing more (R68, R116). -/
theorem flushEntries_afterFault (notify : Option Port) (xs : List PetEntry) (e : Course) (h : e.found ≠ none) :
    xs.foldl (flushEntry notify) e = e := by
  induction xs with
  | nil => rfl
  | cons x xs ih => rw [List.foldl_cons, show flushEntry notify e x = e from if_pos h, ih]

/-- The read of a flush that finds an entry's check code, or its group's, wrong (R68, R116). -/
theorem flushEntry_faulty (notify : Option Port) (x : PetEntry) (fault : GateFault) (e : Course) (h : e.found = none)
    (hx : (e.state.petSound[x.slot] = false ∧ fault = .exchangeStore x.slot) ∨
      (e.state.petSound[x.slot] = true ∧ ∃ g, x.group = some g ∧ e.state.tallies[g].sound = false ∧ fault = .tallyStore g)) :
    flushEntry notify e x = { e with found := some fault } := by
  unfold flushEntry
  rw [if_neg (by simp [h])]
  rcases hx with ⟨hp, rfl⟩ | ⟨hp, g, hg, hs, rfl⟩
  · rw [if_neg (by simp [hp])]
  · rw [if_pos hp, hg, Course.tally1, tally_corrupt g _ _ h hs]
    simp

/-- How many of two lists together carry a group. -/
theorem carrying_append {α : Type} (groupOf : α → Option Group) (g : Group) (xs ys : List α) :
    carrying groupOf g (xs ++ ys) = carrying groupOf g xs + carrying groupOf g ys := by
  simp [carrying]

/-- Once a fault has been found, no telegram of a removed queue is tallied (R116). -/
theorem tallyQueue_afterFault (k : Counter) (xs : List Forwarded) (e : Course) (h : e.found ≠ none) : e.tallyQueue k xs = e := by
  induction xs with
  | nil => rfl
  | cons x xs ih =>
    rw [Course.tallyQueue, List.foldl_cons, ← Course.tallyQueue, Course.tally1, tally_afterFault _ _ _ h]
    exact ih

/-- The tallies of a removed queue up to the first group whose check code is wrong (R116). -/
theorem tallyQueue_stopped (k : Counter) (xs before : List Forwarded) (g : Group) (e : Course) (h : e.found = none)
    (hf : QueueFault xs before g e.state) :
    (e.tallyQueue k xs).found = some (.tallyStore g) ∧
      (e.tallyQueue k xs).state = { e.state with tallies := (e.tallyQueue k xs).state.tallies } ∧
      ∀ j : Group, (e.tallyQueue k xs).state.tallies[j] = raisedBy k (carrying Forwarded.group j before) e.state.tallies[j] := by
  obtain ⟨x, after, rfl, hb, hx, hg⟩ := hf
  obtain ⟨h1, h2, h3⟩ := tallyQueue_sound k before e h hb
  have hc : carrying Forwarded.group g before = 0 := by
    simp only [carrying, List.countP_eq_zero, decide_eq_true_eq]
    intro y hy hyg
    exact absurd (hb y hy g hyg) (by rw [hg]; decide)
  have hgs : (e.tallyQueue k before).state.tallies[g].sound = false := by rw [h3 g, hc]; exact hg
  have key : e.tallyQueue k (before ++ x :: after) = { e.tallyQueue k before with found := some (.tallyStore g) } := by
    have : e.tallyQueue k (before ++ x :: after) = ((e.tallyQueue k before).tally1 x.group k).tallyQueue k after := by
      simp [Course.tallyQueue]
    rw [this, hx, Course.tally1, tally_corrupt g _ _ h1 hgs]
    exact tallyQueue_afterFault _ _ _ (by simp)
  rw [key]
  exact ⟨rfl, h2, h3⟩

/-- A change of the state that neither reads nor writes the tally groups may come before or after the tallies of a queue. -/
theorem tallyQueue_map (k : Counter) (xs : List Forwarded) (e : Course) (f : State → State)
    (h : ∀ (s : State) (v : Vector (Checked Counters) 32), f { s with tallies := v } = { f s with tallies := v }) :
    (e.tallyQueue k xs).map f = (e.map f).tallyQueue k xs := by
  have ht : ∀ s : State, (f s).tallies = s.tallies := fun s => (congrArg State.tallies (h s s.tallies) :)
  induction xs generalizing e with
  | nil => rfl
  | cons x xs ih =>
    have step : (e.tally1 x.group k).map f = (e.map f).tally1 x.group k := by
      simp only [Course.tally1]
      cases hf : e.found with
      | some fault =>
        rw [tally_afterFault _ _ _ (by simp [hf]), tally_afterFault _ _ (e.map f) (by simp [Course.map, hf])]
      | none =>
        have hf' : (e.map f).found = none := hf
        cases hx : x.group with
        | none => simp
        | some g =>
          have hg : (e.map f).state.tallies[g] = e.state.tallies[g] := by simp only [Course.map, ht]
          cases hs : e.state.tallies[g].sound
          · rw [tally_corrupt g _ _ hf hs, tally_corrupt g _ _ hf' (by rw [hg]; exact hs)]
            rfl
          · rw [tally_made g _ _ hf hs, tally_made g _ _ hf' (by rw [hg]; exact hs)]
            change Course.mk (f { e.state with
              tallies := e.state.tallies.set g (Checked.fresh (addTo [(k, 1)] e.state.tallies[g].item)) }) e.found = _
            rw [h, ← hg, ← ht e.state]
            rfl
    have : e.tallyQueue k (x :: xs) = (e.tally1 x.group k).tallyQueue k xs := rfl
    rw [this, ih, step]
    rfl

/-- What a hold of named directions leaves besides its tallies: the flags set, their Forward Queues empty (R107, R108). -/
def heldIn (down up : Bool) (s : State) : State :=
  { s with holdDown := down || s.holdDown, holdUp := up || s.holdUp,
           portF := { s.portF with forwardQ := if down then [] else s.portF.forwardQ },
           portC := { s.portC with forwardQ := if up then [] else s.portC.forwardQ } }

/-- A hold of named directions is its flags and empty queues, and then the held tallies, Port F's queue before Port C's
(R108, R116). -/
theorem holdNamed_eq (down up : Bool) (e : Course) :
    holdNamed down up e = (e.map (heldIn down up)).tallyQueue .held
      ((if down then e.state.portF.forwardQ else []) ++ (if up then e.state.portC.forwardQ else [])) := by
  obtain ⟨s, found⟩ := e
  cases down <;> cases up
  · rfl
  · rfl
  · simp only [holdNamed, holdDirection, Bool.false_eq_true, if_false, if_true, List.append_nil]
    rfl
  · have hq (e : Course) (xs : List Forwarded) : ((e.tallyQueue .held xs).state.port .c).forwardQ = (e.state.port .c).forwardQ := by
      rw [tallyQueue_fields]; rfl
    simp only [holdNamed, holdDirection, if_true, hq]
    rw [tallyQueue_map _ _ _ _ (fun _ _ => rfl), Course.tallyQueue, Course.tallyQueue, Course.tallyQueue, List.foldl_append]
    rfl

/-- A hold of named directions over sound groups: flags set, queues emptied, held tallied (R108). -/
theorem holdNamed_sound (down up : Bool) (e : Course) (h : e.found = none)
    (hs : ∀ x ∈ (if down then e.state.portF.forwardQ else []) ++ (if up then e.state.portC.forwardQ else []),
      SoundGroup x.group e.state) :
    (holdNamed down up e).found = none ∧
      (holdNamed down up e).state = { heldIn down up e.state with tallies := (holdNamed down up e).state.tallies } ∧
      ∀ g : Group, (holdNamed down up e).state.tallies[g] =
        raisedBy .held (carrying Forwarded.group g
          ((if down then e.state.portF.forwardQ else []) ++ (if up then e.state.portC.forwardQ else []))) e.state.tallies[g] := by
  rw [holdNamed_eq]
  exact tallyQueue_sound .held _ (e.map (heldIn down up)) h hs

/-- A hold that finds the check code of a group wrong: flags set, queues emptied, held tallied up to it (R116). -/
theorem holdNamed_stopped (down up : Bool) (before : List Forwarded) (g : Group) (e : Course) (h : e.found = none)
    (hf : QueueFault ((if down then e.state.portF.forwardQ else []) ++ (if up then e.state.portC.forwardQ else [])) before g
      e.state) :
    (holdNamed down up e).found = some (.tallyStore g) ∧
      (holdNamed down up e).state = { heldIn down up e.state with tallies := (holdNamed down up e).state.tallies } ∧
      ∀ j : Group, (holdNamed down up e).state.tallies[j] =
        raisedBy .held (carrying Forwarded.group j before) e.state.tallies[j] := by
  rw [holdNamed_eq]
  exact tallyQueue_stopped .held _ before g (e.map (heldIn down up)) h hf

/-- What an offer of a lapse notice makes of its port (R59). -/
def noticed (s : State) (q : PortState) (x : PetEntry) : PortState :=
  q.offer s.now (byteTime s.sampled.rts) .noticesDropped (ownTelegram s .note x.key.requester 0 (lapsePayload x))

/-- The entries of a line loss's flush, over sound entries and groups: each is tallied, and those that ask for it and whose requester
port is the surviving one offer their notices there, in listing order (R64). -/
theorem flushEntries_told (p : Port) (xs : List PetEntry) (e : Course) (h : e.found = none)
    (hx : ∀ x ∈ xs, e.state.petSound[x.slot] = true) (hs : ∀ x ∈ xs, SoundGroup x.group e.state) :
    (xs.foldl (flushEntry (some p)) e).found = none ∧
      (xs.foldl (flushEntry (some p)) e).state =
        ({ e.state with tallies := (xs.foldl (flushEntry (some p)) e).state.tallies } : State).setPort p
          ((xs.filter fun x => x.notice && decide (x.port = p)).foldl (noticed e.state) (e.state.port p)) ∧
      ∀ g : Group, (xs.foldl (flushEntry (some p)) e).state.tallies[g] =
        raisedBy .flushed (carrying PetEntry.group g xs) e.state.tallies[g] := by
  induction xs generalizing e with
  | nil => refine ⟨h, ?_, fun _ => rfl⟩; simp
  | cons x xs ih =>
    have ht := tally1_sound x.group .flushed e h (hs x List.mem_cons_self)
    have hport : (tallied x.group .flushed 1 e.state).port p = e.state.port p := by rw [tallied_fields]; cases p <;> rfl
    have hx1 : flushEntry (some p) e x = Course.mk
        (if x.notice && decide (x.port = p) then (tallied x.group .flushed 1 e.state).setPort p (noticed e.state (e.state.port p) x)
        else tallied x.group .flushed 1 e.state) e.found := by
      unfold flushEntry
      rw [if_neg (by simp [h]), if_pos (hx x List.mem_cons_self), ht]
      simp only [h]
      by_cases hc : x.notice = true ∧ x.port = p
      · obtain ⟨hn, rfl⟩ := hc
        simp only [hn, Course.map, offerNotice, offer_port, hport]
        simp only [decide_true, Bool.and_self, if_true, true_and, noticed]
        congr 3
        · rw [tallied_fields]
        · rw [tallied_fields]
        · simp only [ownTelegram, State.station]
          rw [tallied_fields]
      · have : (x.notice && decide (x.port = p)) = false := by
          simp only [Bool.and_eq_false_iff, decide_eq_false_iff_not]
          by_cases hn : x.notice = true
          · exact .inr fun hp => hc ⟨hn, hp⟩
          · exact .inl (by simpa using hn)
        simp only [this]
        rw [if_neg]
        · rfl
        · rintro ⟨_, hn, hp⟩; exact hc ⟨hn, by simpa using hp.symm⟩
    generalize hv : (if x.notice && decide (x.port = p) then (tallied x.group .flushed 1 e.state).setPort p (noticed e.state (e.state.port p) x)
        else tallied x.group .flushed 1 e.state) = v at hx1
    have hvp : v.petSound = e.state.petSound := by rw [← hv]; split <;> (try simp only [setPort_petSound]) <;> rw [tallied_fields]
    have hvt : v.tallies = (tallied x.group .flushed 1 e.state).tallies := by rw [← hv]; split <;> simp
    obtain ⟨h1, h2, h3⟩ := ih { e with state := v } h
      (fun y hy => by simp only [hvp]; exact hx y (List.mem_cons_of_mem _ hy))
      (fun y hy g hg => by simp only [hvt]; exact tallied_sound _ _ _ _ (hs y (List.mem_cons_of_mem _ hy)) g hg)
    rw [List.foldl_cons, hx1]
    have hno : noticed v = noticed e.state := by
      have e1 : v.now = e.state.now := by rw [← hv]; split <;> (try simp only [setPort_now]) <;> rw [tallied_fields]
      have e2 : v.sampled = e.state.sampled := by rw [← hv]; split <;> (try simp only [setPort_sampled]) <;> rw [tallied_fields]
      have e3 : v.settings = e.state.settings := by rw [← hv]; split <;> (try simp only [setPort_settings]) <;> rw [tallied_fields]
      funext q y
      simp only [noticed, ownTelegram, State.station, e1, e2, e3]
    refine ⟨h1, ?_, fun g => ?_⟩
    · rw [h2]
      simp only [hno]
      rw [← hv]
      by_cases hc : (x.notice && decide (x.port = p)) = true
      · rw [if_pos hc, List.filter_cons_of_pos (by simpa using hc), List.foldl_cons]
        simp only [port_setPort_same]
        rw [tallied_fields]
        cases p <;> rfl
      · rw [if_neg hc, List.filter_cons_of_neg (by simpa using hc)]
        rw [hport, tallied_fields]
        cases p <;> rfl
    · rw [h3 g]
      simp only [hvt]
      rw [tallied_get, raisedBy_raisedBy]
      congr 1
      simp only [carrying, List.countP_cons, decide_eq_true_eq]
      omega

/-- The entries of a flush up to the first whose own or whose group's check code is wrong, with notices toward a surviving port
(R64, R68, R116). -/
theorem flushEntries_toldStopped (p : Port) (xs before : List PetEntry) (fault : GateFault) (e : Course) (h : e.found = none)
    (hf : FlushFault xs before fault e.state) :
    (xs.foldl (flushEntry (some p)) e).found = some fault ∧
      (xs.foldl (flushEntry (some p)) e).state =
        ({ e.state with tallies := (xs.foldl (flushEntry (some p)) e).state.tallies } : State).setPort p
          ((before.filter fun x => x.notice && decide (x.port = p)).foldl (noticed e.state) (e.state.port p)) ∧
      ∀ g : Group, (xs.foldl (flushEntry (some p)) e).state.tallies[g] =
        raisedBy .flushed (carrying PetEntry.group g before) e.state.tallies[g] := by
  obtain ⟨x, after, rfl, hb, hx⟩ := hf
  obtain ⟨h1, h2, h3⟩ := flushEntries_told p before e h (fun y hy => (hb y hy).1) (fun y hy => (hb y hy).2)
  have hp : (before.foldl (flushEntry (some p)) e).state.petSound = e.state.petSound := by rw [h2]; simp
  have key := flushEntry_faulty (some p) x fault _ h1 (hx.imp (fun hh => ⟨by rw [hp]; exact hh.1, hh.2⟩)
    (fun ⟨ha, g, hg, hs, hf⟩ => ⟨by rw [hp]; exact ha, g, hg, by
      rw [h3 g, show carrying PetEntry.group g before = 0 from ?_]
      · exact hs
      · simp only [carrying, List.countP_eq_zero, decide_eq_true_eq]
        intro y hy hyg
        exact absurd ((hb y hy).2 g hyg) (by rw [hs]; decide), hf⟩))
  rw [List.foldl_append, List.foldl_cons, key, flushEntries_afterFault _ _ _ (by simp)]
  exact ⟨rfl, h2, h3⟩

/-- The entries of a flush that notifies no one, up to the first whose own or whose group's check code is wrong (R68, R116). -/
theorem flushEntries_silentStopped (xs before : List PetEntry) (fault : GateFault) (e : Course) (h : e.found = none)
    (hf : FlushFault xs before fault e.state) :
    (xs.foldl (flushEntry none) e).found = some fault ∧
      (xs.foldl (flushEntry none) e).state = { e.state with tallies := (xs.foldl (flushEntry none) e).state.tallies } ∧
      ∀ g : Group, (xs.foldl (flushEntry none) e).state.tallies[g] =
        raisedBy .flushed (carrying PetEntry.group g before) e.state.tallies[g] := by
  obtain ⟨x, after, rfl, hb, hx⟩ := hf
  obtain ⟨h1, h2, h3⟩ := flushEntries_silent before e h (fun y hy => (hb y hy).1) (fun y hy => (hb y hy).2)
  have hp : (before.foldl (flushEntry none) e).state.petSound = e.state.petSound := by rw [h2]
  have key := flushEntry_faulty none x fault _ h1 (hx.imp (fun hh => ⟨by rw [hp]; exact hh.1, hh.2⟩)
    (fun ⟨ha, g, hg, hs, hf⟩ => ⟨by rw [hp]; exact ha, g, hg, by
      rw [h3 g, show carrying PetEntry.group g before = 0 from ?_]
      · exact hs
      · simp only [carrying, List.countP_eq_zero, decide_eq_true_eq]
        intro y hy hyg
        exact absurd ((hb y hy).2 g hyg) (by rw [hs]; decide), hf⟩))
  rw [List.foldl_append, List.foldl_cons, key, flushEntries_afterFault _ _ _ (by simp)]
  exact ⟨rfl, h2, h3⟩

end Sys2Proof.Laws
end

