-- ==== Sys2Proof/Tests/Slice0.lean ====
section
/-! SUPPORT. Tests/Slice0.lean: our own tests: the well-formedness checks refuse what is ill formed, single steps give what the
spec's worked sequences say, and the hypotheses of every obligation are met by a concrete state. -/

namespace Sys2Proof.Tests

set_option Elab.async false

open Sys2Proof.Machine Sys2Proof.Safety

/-! ## Small states and readings of a result -/

/-- Station 20, the controller of the worked sequences, under tag 1. -/
def host : OrderHead := { source := 20, tag := 1 }

/-- The controller under another tag. -/
def hostTag (n : Nat) : OrderHead := { source := 20, tag := BitVec.ofNat 6 n }

/-- Station 150, beyond Port F. -/
def tool : OrderHead := { source := 150, tag := 3 }

/-- A SERVING gate at station 200 with both lines UP and both holds clear. -/
def gate : State := { State.reset with gate := .serving, holdDown := false, holdUp := false }

/-- A transmission under way; what stands on the line of it does not matter here. -/
def busyWith (x : TxItem) : Transmission := { item := x, frame := [], ends := 5000 }

/-- A gate-originated NOTE. -/
def ownNote : Telegram :=
  { dest := 20, source := 200, kind := .note, mark := false, reach := 15, tag := 0, payload := [] }

/-- A transmitter busy with a NOTE of the gate. -/
def busy : Transmission := busyWith (.own { telegram := ownNote, restartAnswer := false })

/-- Both transmitters busy. -/
def busyGate : State :=
  { gate with portC := { gate.portC with sending := some busy }, portF := { gate.portF with sending := some busy } }

/-- The state after a command. -/
def after (c : Instr) (s : State) : State :=
  match exec c s with
  | .next t => t
  | _ => s

/-- The payload of the telegram that a port's transmitter took. -/
def sent (p : Port) (s : State) : List Byte :=
  match (s.port p).sending with
  | some { item := .own x, .. } => x.telegram.payload
  | _ => []

/-- The answer that leaves Port C at once. -/
def answer (c : Instr) (s : State) : List Byte := sent .c (after c s)

/-- A port about to receive the last bytes of a telegram: its first byte is in the assembly. -/
def hearing (p : Port) (t : Telegram) (s : State) : State :=
  s.onPort p fun q => { q with assembly := some (Assembly.empty.push t.dest) }

/-- The command at which that telegram ends. -/
def ending (p : Port) (t : Telegram) : Instr := .frameEnd Since.now p (t.frame.drop 1)

/-- The state after a telegram has arrived at a port. -/
def arrives (p : Port) (t : Telegram) (s : State) : State := after (ending p t) (hearing p t s)

/-- A bank whose entry at one index is given. -/
def withRule (i : RuleIndex) (e : RuleEntry) (s : State) : State :=
  { s with bankA := s.bankA.set i (Checked.fresh e) }

/-- Entry 1 of section 2.5. -/
def rule1 : RuleEntry :=
  { inUse := true, downward := true, upward := false, sourceLow := 10, sourceHigh := 19, destLow := 100, destHigh := 149,
    kinds := 1, action := .track, group := some 3, profile := some 4, overRate := .drop, capture := true, timeoutClass := 1,
    allowance := 1, notice := true }

/-- Entry 2 of section 2.5. -/
def rule2 : RuleEntry :=
  { rule1 with downward := false, upward := true, sourceLow := 100, sourceHigh := 149, destLow := 10, destHigh := 19,
               kinds := 2, profile := none, timeoutClass := 0, allowance := 0, notice := false }

/-- Entry 3 of section 2.5. -/
def rule3 : RuleEntry :=
  { rule1 with upward := true, sourceLow := 1, sourceHigh := 239, destLow := 1, destHigh := 255, kinds := 4, action := .pass,
               group := some 4, profile := some 5, overRate := .mark, capture := false, timeoutClass := 0, allowance := 0,
               notice := false }

/-- A defined profile. -/
def profile (mode : CostMode) (capacity credits : Byte) : Profile :=
  { capacity := capacity, amount := 2, period := 20, mode := mode, credits := credits, nextExpiry := some 80000 }

/-- The gate of section 2.5, its transmitters busy. -/
def gate25 : State :=
  let s := withRule 1 rule1 (withRule 2 rule2 (withRule 3 rule3 busyGate))
  { s with
    profiles := (s.profiles.set 4 (profile .perTelegram 2 1)).set 5 (profile .perSize 4 1) }

/-- T1 of section 2.5. -/
def t1 : Telegram :=
  { dest := 120, source := 12, kind := .poll, mark := false, reach := 3, tag := 7, payload := List.replicate 10 0xAA }

/-- T5 of section 2.5. -/
def t5 : Telegram :=
  { dest := 12, source := 120, kind := .reply, mark := false, reach := 2, tag := 7, payload := [1, 2, 3, 4] }

/-- T7 of section 2.5. -/
def t7 : Telegram :=
  { dest := 12, source := 77, kind := .note, mark := false, reach := 4, tag := 0, payload := List.replicate 40 0 }

/-- The exchange that T1 opens. -/
def exchange1 : PetEntry :=
  { key := { requester := 12, responder := 120, tag := 7 }, port := .c, rule := 1, group := some 3, timeoutClass := 1,
    deadline := 800000, used := 0, allowance := 1, notice := true, number := 0, slot := 0 }

/-- The gate with that exchange open. -/
def gateOpen : State := { gate25 with pet := [exchange1], openCounter := 1 }

/-- A tally of the live counters. -/
def tallyOf (g : Group) (k : Counter) (s : State) : Nat := (s.tallies[g].item[k.index]).toNat

/-- A port counter. -/
def countOf (p : Port) (k : PortCounter) (s : State) : Nat := ((s.port p).counters[k.index]).toNat

/-- A commit in flight from station 20, tag 16, KEEP, over a Staging bank with the given result. -/
def commitContext (failure : Option (Reason × RuleIndex)) : CommitContext :=
  { requester := 20, port := .c, tag := 16, hold := false, keep := true, inUse := 9, failure := failure }

/-! ## Well-formedness -/

theorem test_source_zero_is_ill_formed : (Instr.status Since.now .c { source := 0, tag := 0 } []).wellFormed = false := by
  decide

theorem test_source_240_is_ill_formed : (Instr.status Since.now .c { source := 240, tag := 0 } []).wellFormed = false := by
  decide

theorem test_long_parameters_are_ill_formed :
    (Instr.stageWrite Since.now .c host (List.replicate 240 0)).wellFormed = false := by decide +kernel

theorem test_long_unknown_order_is_ill_formed :
    (Instr.unknownOrder Since.now .c host (List.replicate 241 0)).wellFormed = false := by decide +kernel

theorem test_unknown_order_from_no_station_is_ill_formed :
    (Instr.unknownOrder Since.now .c { source := 255, tag := 0 } []).wellFormed = false := by decide

theorem test_assigned_code_is_no_unknown_order : (Instr.unknownOrder Since.now .c host [0x17]).wellFormed = false := by decide

theorem test_deadline_of_no_requester_is_ill_formed :
    (Instr.deadlineExpiry Since.now { requester := 0, responder := 1, tag := 0 }).wellFormed = false := by decide

theorem test_deadline_of_no_responder_is_ill_formed :
    (Instr.deadlineExpiry Since.now { requester := 1, responder := 255, tag := 0 }).wellFormed = false := by decide

theorem test_longest_order_is_well_formed :
    (Instr.stageWrite Since.now .c { source := 239, tag := 63 } (List.replicate 239 0)).wellFormed = true := by decide +kernel

/-! ## Decoding -/

/-- No row of the table has bits, so no word spells a command. -/
theorem test_no_word_is_a_command : decodeTableWord 8 0x05 = none := rfl

/-- The check word of the ASCII digits 1 to 9 (R4). -/
theorem test_check_word_of_digits : crcOf [0x31, 0x32, 0x33, 0x34, 0x35, 0x36, 0x37, 0x38, 0x39] = 0x29B1 := by decide +kernel

/-- The entry of section 12.6. -/
theorem test_entry_bytes : rule1.encode = [0xB6, 0x0A, 0x13, 0x64, 0x95, 0x01, 0x03, 0x04, 0x05] := by decide

/-- The header of T1 as it arrives (section 12.6). -/
theorem test_header_bytes : t1.header = [0x78, 0x0C, 0x23, 0x07, 0x0A] := by decide

/-- The header of T1 as it leaves (section 12.6). -/
theorem test_forwarded_header_bytes : (t1.forwarded false).header = [0x78, 0x0C, 0x22, 0x07, 0x0A] := by decide

/-! ## Frames -/

theorem test_frame_begin_stores_the_first_byte :
    ((after (.frameBegin Since.now .c 0x78) gate).portC.assembly.map Assembly.stored) = some [0x78] := by decide +kernel

/-- Section 2.5, event 1: T1 is enqueued with reach 2 and opens its exchange; the credit is taken and the capture made. -/
theorem test_frame_end_opens_an_exchange :
    let s := arrives .c t1 gate25
    s.pet = [exchange1] ∧ s.portF.forwardQ.map (fun x => x.telegram.reach) = [2] ∧ (s.profiles[4]).credits = 0 ∧
      tallyOf 3 .opened s = 1 ∧ s.captures.map (fun x => (x.rule, x.outcome)) = [(1, .enqueued)] := by decide +kernel

/-- Section 2.5, events 6 and 8: the REPLY closes the exchange; T7 is over rate and marked, uncharged, with reach 3. -/
theorem test_frame_end_closes_and_marks :
    let s := arrives .f t5 gateOpen
    let t := arrives .f t7 gate25
    s.pet = [] ∧ tallyOf 3 .answered s = 1 ∧ s.portC.forwardQ.map (fun x => x.telegram.reach) = [1] ∧
      t.portC.forwardQ.map (fun x => (x.telegram.reach, x.telegram.mark)) = [(3, true)] ∧ (t.profiles[5]).credits = 1 ∧
      tallyOf 4 .overRateMarked t = 1 := by decide +kernel

/-! ## Events -/

/-- A forwarded telegram of ten payload bytes is tallied passed with fifteen octets, and the Local Queue goes first (R17). -/
theorem test_transmit_completion_tallies_and_takes :
    let x : Forwarded := { telegram := t1, group := some 3 }
    let s := after (.transmitCompletion Since.now .f)
      { gate with portF := { gate.portF with sending := some (busyWith (.forwarded x)), forwardQ := [x],
                                             localQ := [{ telegram := ownNote, restartAnswer := false }] } }
    tallyOf 3 .passed s = 1 ∧ tallyOf 3 .passedOctets s = 15 ∧ s.portF.localQ = [] ∧ s.portF.forwardQ = [x] := by
  decide +kernel

/-- Section 11.8, event 6: the completion of the RESTART answer begins STARTING. -/
theorem test_restart_answer_completion_restarts :
    let s := after (.transmitCompletion Since.now .c)
      { gate with slot := .restarting { port := .c, limit := 80000 },
                  portC := { gate.portC with sending := some (busyWith (.own { telegram := ownNote, restartAnswer := true })) } }
    s.gate = .starting ∧ s.slot = .idle := by decide +kernel

/-- Chapter 1, line loss: what was queued is counted, the line is DOWN, and a forwarded telegram is tallied line lost. -/
theorem test_line_loss_empties_the_port :
    let x : Forwarded := { telegram := t1, group := some 3 }
    let s := after (.lineLoss Since.now .f)
      { gate with portF := { gate.portF with timing := some 0, sending := some (busyWith (.forwarded x)), forwardQ := [x],
                                             localQ := [{ telegram := ownNote, restartAnswer := false }] } }
    s.portF.line = .down ∧ tallyOf 3 .lineLost s = 2 ∧ countOf .f .localItemsLost s = 1 ∧ countOf .f .lineLossEvents s = 1 ∧
      s.now = 20000 := by decide +kernel

/-- Port F hears the REPLY's first byte while its exchange is open, and a line loss comes before its frame ends (R65). -/
def lostPort : State :=
  after (.lineLoss Since.now .f) ((hearing .f t5 gateOpen).onPort .f fun q => { q with timing := some 0 })

/-- R65, the line loss taken first: the exchange is flushed and the REPLY is refused as unsolicited, once. Taken before the loss,
the REPLY closes its exchange. A moment after it no frame ends there, and at its moment a NOTE is not decided. -/
theorem test_reply_at_the_lost_port_is_unsolicited :
    let s := after (ending .f t5) lostPort
    tallyOf 3 .flushed s = 1 ∧ tallyOf 3 .unsolicited s = 1 ∧ countOf .f .goodReceived s = 1 ∧ s.portC.forwardQ = [] ∧
      (s.captures.map CaptureRecord.outcome) = [.unsolicited] ∧ after (ending .f t5) s = s ∧
      tallyOf 3 .answered (after (ending .f t5) (hearing .f t5 gateOpen)) = 1 ∧
      tallyOf 3 .unsolicited
        (after (.frameEnd { Since.now with elapsed := 1 } .f (t5.frame.drop 1)) lostPort) = 0 ∧
      after (ending .f { t7 with dest := t5.dest }) lostPort = lostPort := by decide +kernel

theorem test_line_return_makes_the_line_up :
    let s := after (.lineReturn Since.now .f) { gate with portF := { gate.portF with line := .down, timing := some 100 } }
    s.portF.line = .up ∧ s.now = 8100 := by decide +kernel

theorem test_signal_absence_is_timed :
    (after (.signalChange { Since.now with elapsed := 7 } .c false) gate).portC.timing = some 7 := by decide +kernel

/-- The lapse of T1's exchange: its key in the ring, lapsed tallied, the notice of R208 to station 12. -/
theorem test_deadline_expiry_lapses :
    let s := after (.deadlineExpiry Since.now exchange1.key) { gate with pet := [exchange1] }
    s.pet = [] ∧ s.ring = [exchange1.key] ∧ tallyOf 3 .lapsed s = 1 ∧ sent .c s = [0x02, 120, 7, 0, 1] ∧ s.now = 800000 := by
  decide +kernel

/-- Section 4.7, 20 ms: 1 and 2 is 3. -/
theorem test_period_expiry_refills :
    let s := after (.periodExpiry Since.now 7) { gate with profiles := gate.profiles.set 7 (profile .perSize 4 1) }
    (s.profiles[7]).credits = 3 ∧ (s.profiles[7]).nextExpiry = some 160000 := by decide +kernel

/-- Section 4.7, 80 ms: 4 and 2 is lowered to 4. -/
theorem test_period_expiry_stops_at_the_capacity :
    let s := after (.periodExpiry Since.now 7) { gate with profiles := gate.profiles.set 7 (profile .perSize 4 4) }
    (s.profiles[7]).credits = 4 := by decide +kernel

/-- Section 13.4, 7.8 ms: REFUSED with detail 0628h. -/
theorem test_validation_refuses :
    answer (.validationComplete Since.now)
      { gate with slot := .validating (commitContext (some (.undefinedProfile, 40))), generation := 7 } =
      [0x08, 0x03, 0x01, 0x00, 0x00, 0x07, 0x06, 0x28] := by decide +kernel

/-- Section 13.4, 12.4 ms: COMPLETED with detail 9, generation 8, the other bank active. -/
theorem test_validation_completes :
    let c := Instr.validationComplete Since.now
    let s := { gate with slot := .validating (commitContext none), generation := 7, activeBank := .b }
    answer c s = [0x08, 0x02, 0x01, 0x00, 0x00, 0x08, 0x00, 0x09] ∧ (after c s).activeBank = .a := by decide +kernel

theorem test_restart_time_limit_restarts :
    let s := after (.restartTimeLimit Since.now) { gate with slot := .restarting { port := .c, limit := 80000 } }
    s.gate = .starting ∧ s.now = 80000 := by decide +kernel

theorem test_power_on_samples_the_straps :
    (after (.powerOn { Since.now with straps := some { stn := 17, rts := 3 } }) gate).station = 17 := by decide +kernel

theorem test_reset_asserted_stops_reception : receiving .c (after (.resetAsserted Since.now) gate) = false := by decide +kernel

theorem test_starting_ends_in_serving : (after (.startingEnd Since.now) State.reset).gate = .serving := by decide +kernel

/-- An unusable strap value halts the gate with STRAP, and 239 is in use (R194). -/
theorem test_unusable_strap_halts :
    let s := after (.startingEnd Since.now) { State.reset with sampled := { stn := 240, rts := 1 } }
    s.gate = .halted ∧ s.fault = some (.strap 240) ∧ s.station = 239 := by decide +kernel

/-! ## Orders: whole answer payloads, byte by byte from R205 to R207 -/

theorem test_unknown_order_shows_its_code :
    answer (.unknownOrder Since.now .c host [0x18, 1]) gate = [0x18, 0x07, 0x01, 0, 0, 0, 0, 0] := by decide +kernel

theorem test_empty_order_shows_zero :
    answer (.unknownOrder Since.now .c host []) gate = [0x00, 0x07, 0x01, 0, 0, 0, 0, 0] := by decide +kernel

/-- Section 13.1, step 1. -/
theorem test_status_after_power_on :
    answer (.status Since.now .c host []) { State.reset with gate := .serving } =
      [0x01, 0x00, 0x01, 0x00, 0, 0, 0, 0, 0x01, 0, 0, 0, 200, 0x0F, 0, 0, 0, 0, 0, 0, 0, 0, 0, 0, 0, 0, 0, 0, 0, 0] := by
  decide +kernel

theorem test_config_read_of_reset_values :
    answer (.configRead Since.now .c host []) gate =
      [0x02, 0x00, 0x01, 0x00, 0, 0, 0, 0, 1, 1, 0xFF, 0xFF, 4, 0, 50, 0, 200, 0x03, 0xE8, 0x13, 0x88, 1, 0xFF, 0xFF, 15] := by
  decide +kernel

/-- Section 9.7, case 1. -/
theorem test_config_write_three_fields :
    let c := Instr.configWrite Since.now .c host [0x10, 0x50, 8, 0x01, 0x90, 6]
    answer c gate = [0x03, 0x00, 0x01, 0x00, 0, 0, 0, 3] ∧ (after c gate).settings.requesterLimit = 8 ∧
      (after c gate).settings.classMs[1] = 400 ∧ (after c gate).settings.answerReach = 6 := by decide +kernel

/-- Section 9.7, cases 2 to 6. -/
theorem test_config_write_faults :
    let position (args : List Byte) : Option Byte := (answer (.configWrite Since.now .c host args) gate)[7]?
    position [0x10, 0x50, 20, 0x01, 0x90, 6] = some 3 ∧ position [0x10, 0x50, 8, 0, 0, 6] = some 4 ∧
      position [0x10, 0x50, 8, 0x01, 0x90] = some 6 ∧ position [0x10, 0x50, 8, 0x01, 0x90, 6, 0] = some 7 ∧
      position [0x30, 0x50, 8, 0x01, 0x90, 6] = some 1 := by decide +kernel

theorem test_rules_read_of_the_active_bank :
    answer (.rulesRead Since.now .c host [0, 1, 1]) (withRule 1 rule1 gate) =
      [0x04, 0x00, 0x01, 0x00, 0, 0, 0, 1, 0x00, 0xB6, 0x0A, 0x13, 0x64, 0x95, 0x01, 0x03, 0x04, 0x05] := by decide +kernel

/-- Section 12.6: entry 1 sent by STAGE_WRITE. -/
theorem test_stage_write_of_one_entry :
    ((after (.stageWrite Since.now .c host [1, 0xB6, 0x0A, 0x13, 0x64, 0x95, 0x01, 0x03, 0x04, 0x05]) gate).bankB[1]).item =
      rule1 := by decide +kernel

/-- Section 12.6: byte 8 with a nonzero high nibble stands at position 10. -/
theorem test_stage_write_fault_position :
    answer (.stageWrite Since.now .c host [1, 0xB6, 0x0A, 0x13, 0x64, 0x95, 0x01, 0x03, 0x04, 0x15]) gate =
      [0x05, 0x08, 0x01, 0x00, 0, 0, 0, 10] := by decide +kernel

theorem test_stage_clear_empties_the_staging_bank :
    let s := after (.stageClear Since.now .c host []) { gate with bankB := gate.bankB.set 5 (Checked.fresh rule1) }
    (s.bankB[5]).item = RuleEntry.reset := by decide +kernel

theorem test_stage_clone_counts_the_entries_in_use :
    let s := withRule 1 rule1 gate
    let c := Instr.stageClone Since.now .c host []
    ((after c s).bankB[1]).item = rule1 ∧ answer c s = [0x07, 0x00, 0x01, 0x00, 0, 0, 0, 1] := by decide +kernel

/-- Section 13.1, step 5: ACCEPTED, the slot VALIDATING. -/
theorem test_commit_is_accepted :
    answer (.commit Since.now .c host [2]) { gate with bankB := gate.bankB.set 0 (Checked.fresh rule1) } =
      [0x08, 0x01, 0x01, 0x01, 0, 0, 0, 1] := by decide +kernel

theorem test_abandon_without_a_commit : answer (.abandon Since.now .c host []) gate = [0x09, 0x0A, 0x01, 0, 0, 0, 0, 0] := by
  decide +kernel

/-- Section 13.4, 0.6 ms: the completion answer goes to Port C, the DONE answer to Port F. -/
theorem test_abandon_ends_a_commit :
    let s := after (.abandon Since.now .f tool [])
      { gate with slot := .validating (commitContext none), settings := { gate.settings with access := .full } }
    sent .c s = [0x08, 0x04, 0x01, 0, 0, 0, 0, 0] ∧ sent .f s = [0x09, 0x00, 0x01, 0, 0, 0, 0, 0] := by decide +kernel

theorem test_hold_removes_what_is_queued :
    let x : Forwarded := { telegram := t1, group := some 3 }
    let s := { busyGate with portF := { busyGate.portF with forwardQ := [x, x] } }
    let t := after (.hold Since.now .c host [1]) s
    t.holdDown = true ∧ t.holdUp = false ∧ tallyOf 3 .held t = 2 ∧ t.portF.forwardQ = [] ∧
      (t.portC.localQ.map fun y => y.telegram.payload) = [[0x0A, 0x00, 0x01, 0, 0, 0, 0, 2]] := by decide +kernel

theorem test_release_clears_the_named_hold :
    let s := after (.release Since.now .c host [2]) { gate with holdDown := true, holdUp := true }
    s.holdDown = true ∧ s.holdUp = false := by decide +kernel

theorem test_profile_read_of_one :
    answer (.profileRead Since.now .c host [5, 1]) gate25 = [] ∧
      answer (.profileRead Since.now .c host [5, 1]) { gate with profiles := gate25.profiles } =
        [0x0C, 0x00, 0x01, 0, 0, 0, 0, 1, 4, 2, 0, 20, 1, 1] := by decide +kernel

/-- Section 13.4, 10 ms: profile 11, capacity 8, amount 2, period 50, PER_SIZE. -/
theorem test_profile_write_sets_full_credits :
    (after (.profileWrite Since.now .c host [11, 8, 2, 0, 50, 1]) gate).profiles[11] =
      { capacity := 8, amount := 2, period := 50, mode := .perSize, credits := 8, nextExpiry := some 200000 } := by
  decide +kernel

/-- Section 4.7, 85 ms: capacity 0 for a profile that an Active entry names is IN_USE with the entry's index. -/
theorem test_profile_write_in_use :
    answer (.profileWrite Since.now .c host [4, 0, 2, 0, 20, 1]) (withRule 1 rule1 gate) =
      [0x0D, 0x09, 0x01, 0, 0, 0, 0, 1] := by decide +kernel

/-- 200 ms to go at the opening, 800000 quarter microseconds. -/
theorem test_exchange_list_of_one :
    answer (.exchangeList Since.now .c host [0]) { gate with pet := [exchange1] } =
      [0x0E, 0x00, 0x01, 0, 0, 0, 0, 1, 1, 12, 120, 7, 0, 1, 3, 1, 0, 0, 0, 0, 200] := by decide +kernel

theorem test_exchange_flush_tallies :
    let s := after (.exchangeFlush Since.now .c host []) { gate with pet := [exchange1], ring := [exchange1.key] }
    s.pet = [] ∧ s.ring = [] ∧ tallyOf 3 .flushed s = 1 := by decide +kernel

/-- Section 13.3, event 1: groups 1, 5, 9 and 12 captured with sequence 8. -/
theorem test_snapshot_answer :
    answer (.snapshot Since.now .c host [0x00, 0x00, 0x12, 0x22, 1]) { gate with captureSeq := 7 } =
      [0x10, 0x00, 0x01, 0, 0, 0, 0, 8, 0x00, 0x00, 0x12, 0x22, 0, 0, 0, 0] := by decide +kernel

/-- Section 11.8, event 1: group 2 captured, group 6 found wrong, the gate halted without an answer. -/
theorem test_snapshot_of_a_corrupt_group_halts :
    let s := after (.snapshot { Since.now with upsets := [.tally 6] } .c host [0, 0, 0, 0x44, 0]) gate
    s.gate = .halted ∧ s.fault = some (.tallyStore 6) ∧ (s.snapshots[2]).isSome = true ∧ s.snapshots[6] = none ∧
      s.portC.lastAnswer = none ∧ s.portC.sending = none := by decide +kernel

theorem test_snapshot_read_empties_the_slot :
    let x : Snapshot := { counters := Counters.zero, saturated := true, generation := 1, sequence := 8, sound := true }
    let s := { gate with snapshots := gate.snapshots.set 12 (some x) }
    let c := Instr.snapshotRead Since.now .c host [0, 0, 0x10, 0]
    (after c s).snapshots[12] = none ∧
      (answer c s).take 16 = [0x11, 0x00, 0x01, 0, 0, 0, 0, 1, 0, 0, 0, 0, 0xB0, 0x01, 0, 8] ∧
      (answer c s).length = 88 := by decide +kernel

theorem test_tally_clear_leaves_other_groups :
    let s := { gate with tallies := Vector.replicate 32 (Checked.fresh (Vector.replicate 18 5)) }
    let t := after (.tallyClear Since.now .c host [0, 0, 0, 2]) s
    tallyOf 1 .passed t = 0 ∧ tallyOf 0 .passed t = 5 := by decide +kernel

/-- The order's own counts are in its answer (R179). -/
theorem test_port_counters_show_this_order :
    (answer (.portCounters Since.now .c host [1, 0]) gate).take 12 = [0x13, 0x00, 0x01, 0, 0, 0, 0, 0, 0, 0, 0, 1] ∧
      (answer (.portCounters Since.now .c host [1, 0]) gate).length = 60 := by decide +kernel

/-- Section 12.6: the capture record of T1, nineteen bytes. -/
theorem test_capture_read_of_t1 :
    answer (.captureRead Since.now .c host []) { gate with captures := [captureRecord .c 1 0 .enqueued t1], overflow := 2 } =
      [0x14, 0x00, 0x01, 0, 0, 0, 0, 0, 0, 2, 0x0B, 0x01, 0, 0, 0x78, 0x0C, 0x23, 0x07, 0x0A] ++ List.replicate 10 0xAA := by
  decide +kernel

theorem test_capture_clear_counts_the_records :
    answer (.captureClear Since.now .c host []) { gate with captures := [captureRecord .c 1 0 .enqueued t1] } =
      [0x15, 0x00, 0x01, 0, 0, 0, 0, 1] := by decide +kernel

/-- Section 10.8, event 4: the read of word 0 clears the flag toward F. -/
theorem test_word_read_clears_the_flag :
    let s := { gate with words := (gate.words.set 0 18).set 1 5, portF := { gate.portF with noticePending := true } }
    let t := after (.wordRead Since.now .f tool [0, 2]) s
    sent .f t = [0x16, 0x00, 0x01, 0, 0, 0, 0, 2, 0, 18, 0, 5] ∧ t.portF.noticePending = false := by decide +kernel

/-- Section 10.8, event 1: a word notice to 150 with index 0 and value 17. -/
theorem test_word_write_places_a_notice :
    let s := { gate with settings := { gate.settings with noticeF := some 150 } }
    let t := after (.wordWrite Since.now .c host [0, 0, 17]) s
    t.words[0] = 17 ∧ sent .f t = [0x01, 0, 0, 17] ∧ t.portF.noticePending = true := by decide +kernel

/-- Section 10.8, event 3: word 7 belongs to the C side. -/
theorem test_word_write_of_the_other_side_is_denied :
    let t := after (.wordWrite Since.now .f tool [7, 0, 1, 0, 2]) gate
    sent .f t = [0x17, 0x06, 0x01, 0, 0, 0, 0, 0] ∧ t.words = gate.words := by decide +kernel

/-- Section 11.8, event 4: the DONE answer goes to the head of the Local Queue. -/
theorem test_restart_answer_goes_first :
    let own : Own := { telegram := ownNote, restartAnswer := false }
    let s := { gate with portC := { gate.portC with sending := some busy, localQ := [own, own, own, own] } }
    let t := after (.restart Since.now .c host []) s
    t.slot.state = .restarting ∧ (t.portC.localQ.map Own.restartAnswer) = [true, false, false, false] ∧
      countOf .c .localItemsLost t = 1 := by decide +kernel

/-- A repeat gets the stored answer and is executed no second time (R145). -/
theorem test_repeat_is_answered_from_the_record :
    let t := after (.release Since.now .c host [2]) { after (.hold Since.now .c host [2]) gate with holdUp := true }
    t.holdUp = true ∧ countOf .c .repeatsAnswered t = 1 := by decide +kernel

/-! ## The hypotheses of the obligations are met -/

/-- Port F with the first byte of a telegram in its assembly, and so on: the state right before T1's frame ends. -/
def before1 : State := hearing .c t1 gate25

/-- The same with T1's exchange open. -/
def before1Open : State := hearing .c t1 gateOpen

/-- Right before the REPLY's frame ends, its exchange open. -/
def before5 : State := hearing .f t5 gateOpen

/-- A gate that has halted. -/
def haltedGate : State := { gate with gate := .halted, holdDown := true, holdUp := true, fault := some (.tallyStore 6) }

/-- A gate that waits for its restart. -/
def restartingGate : State := { gate with slot := .restarting { port := .c, limit := 80000 } }

/-- A gate with a commit in flight. -/
def committingGate : State := { gate with slot := .validating (commitContext none) }

/-- A tally group whose check code is wrong. -/
def corruptGroup (g : Group) (s : State) : State :=
  { s with tallies := s.tallies.set g { item := Counters.zero, sound := false } }

/-- A rule entry of bank A whose check code is wrong. -/
def corruptEntryA (i : RuleIndex) (s : State) : State :=
  { s with bankA := s.bankA.set i { item := RuleEntry.reset, sound := false } }

/-- A rule entry of bank B whose check code is wrong. -/
def corruptEntryB (i : RuleIndex) (s : State) : State :=
  { s with bankB := s.bankB.set i { item := RuleEntry.reset, sound := false } }

/-- A PET slot whose check code is wrong. -/
def corruptSlot (i : Fin 64) (s : State) : State := { s with petSound := s.petSound.set i false }

/-- Every order from station 20 at Port C is delivered and executed by a SERVING gate whose slot is IDLE. -/
theorem witness_orders (k : OrderCode) (args : List Byte) : Heard .c host gate ∧ Admitted k args .c host gate :=
  ⟨⟨rfl, by decide, by decide⟩, .inl rfl, .inl rfl, .inl rfl, fun _ hx => by cases hx⟩

/-- A Port C state that no order has used lets every order through, whatever else the gate holds. -/
theorem admitted_of (k : OrderCode) (args : List Byte) (s : State) (hg : s.gate = .serving) (hs : s.slot = .idle)
    (hl : (s.port .c).lastAnswer = none) : Admitted k args .c host s :=
  ⟨.inl hg, .inl rfl, .inl hs, fun _ hx => by rw [hl] at hx; cases hx⟩

/-- The same of delivery. -/
theorem heard_of (s : State) (hr : receiving .c s = true) (hs : s.station = 200) : Heard .c host s :=
  ⟨hr, by decide, by rw [hs]; decide⟩

theorem witness_StepRunsTheFrontCommand : gate.pending = [] := rfl

/-- A state with rules, profiles, an open exchange and a command waiting, that meets every invariant and steps. -/
theorem witness_StepKeeps :
    let s := { before1Open with pending := [ending .c t1] }
    LinesOk s ∧ HoldsOk s ∧ TrackerOk s ∧ RatesOk s ∧ RulesOk s ∧ StoppedOk s ∧ CapturesOk s ∧ SettingsOk s ∧
      ∃ t, step s = .next t := by
  refine ⟨?_, ?_, ?_, ?_, ⟨?_, ?_⟩, ?_, ?_, ?_, _, rfl⟩
  · simp only [LinesOk, queuesOk, downOk]; decide +kernel
  · simp only [HoldsOk]; decide +kernel
  · simp only [TrackerOk]; decide +kernel
  · simp only [RatesOk]; decide +kernel
  · decide +kernel
  · intro c hc; cases hc
  · simp only [StoppedOk]; decide +kernel
  · simp only [CapturesOk]; decide +kernel
  · refine ⟨by decide, by decide, by decide, by decide, ?_, ?_⟩ <;> intro x hx <;> cases hx

/-- A commit in flight whose context holds what its bank gives. -/
theorem witness_StepKeepsRulesOk :
    let c : CommitContext := { commitContext none with inUse := 0 }
    RulesOk { gate with slot := .validating c, pending := [.validationComplete Since.now] } := by
  refine ⟨by decide +kernel, fun c hc => ?_⟩
  cases hc
  exact ⟨by decide +kernel, by decide +kernel⟩

/-- T1 at a busy output transmitter, and at a free one, which takes it at the same event. -/
theorem witness_OnlyAFrameEndForwards :
    let x : Forwarded := { telegram := t1.forwarded false, group := some 3 }
    let free := { before1 with portF := { before1.portF with sending := none } }
    (∃ t, exec (ending .c t1) before1 = .next t ∧ x ∈ (t.port .f).forwardQ ∧ x ∉ (before1.port .f).forwardQ) ∧
      ∃ t, exec (ending .c t1) free = .next t ∧ (t.port .f).sending.map Transmission.item = some (.forwarded x) ∧
        (free.port .f).sending = none := by
  refine ⟨⟨_, rfl, ?_, ?_⟩, _, rfl, ?_, ?_⟩ <;> decide +kernel

/-- A state that no run reaches: an exchange open at a port just lost, whose REPLY is forwarded. -/
theorem witness_OnlyAFrameEndForwards_lost :
    let s := { lostPort with pet := [exchange1] }
    ∃ t, exec (ending .f t5) s = .next t ∧ { telegram := t5.forwarded false, group := some 3 } ∈ (t.port .c).forwardQ ∧
      (s.port .c).forwardQ = [] :=
  ⟨_, rfl, by decide +kernel, by decide +kernel⟩

theorem witness_ActiveRulesChangeOnlyAtCommitOrStart :
    ∃ t, exec (.validationComplete Since.now) committingGate = .next t ∧ t.activeBank ≠ committingGate.activeBank :=
  ⟨_, rfl, by decide +kernel⟩

/-- The values of a HELD slot. -/
def heldSlot : Snapshot := { counters := Counters.zero, saturated := false, generation := 0, sequence := 1, sound := true }

theorem witness_HeldSlotsKeepTheirValues :
    let s := { gate with snapshots := gate.snapshots.set 2 (some heldSlot) }
    let c := Instr.tallyClear Since.now .c host [255, 255, 255, 255]
    c.wellFormed = true ∧ (∃ t, exec c s = .next t) ∧ s.snapshots[2] = some heldSlot :=
  ⟨by decide, ⟨_, rfl⟩, by decide +kernel⟩

/-- The longest payload. -/
theorem witness_TelegramsRoundTrip : ({ t1 with payload := List.replicate 240 0 } : Telegram).payload.length ≤ 240 := by
  decide +kernel

theorem witness_RuleEntriesRoundTrip :
    EntryOk rule1 ∧ EntryOk { rule1 with sourceLow := 239, sourceHigh := 1, destLow := 255, destHigh := 255 } ∧
      RuleEntry.decode 0xB6 0x0A 0x13 0x64 0x95 0xC1 0x03 0x04 0x05 = .ok rule1 := by
  simp only [EntryOk]; decide

/-! ### Frames -/

theorem witness_FrameBeginStoresTheFirstByte :
    (receiving .c gate = true ∧ (gate.port .c).assembly = none) ∧ receiving .c State.reset = false ∧
      (before1.port .c).assembly ≠ none := by decide

/-- No frame under way and no line lost; a port just lost where no REPLY ends. -/
theorem witness_FrameBeginStoresTheFirstByte_quiet :
    ((gate.port .c).assembly = none ∧ ∀ rest t, ¬(FramedAtLoss Since.now .c rest gate t ∧ ForClassifier gate t)) ∧
      receiving .f lostPort = false ∧
      ∀ t, ¬(FramedAtLoss Since.now .f [] lostPort t ∧ ForClassifier lostPort t) := by
  refine ⟨⟨rfl, fun rest t h => ?_⟩, by decide +kernel, fun t h => ?_⟩
  · exact absurd h.1.1 (by decide)
  · obtain ⟨⟨-, -, -, ⟨x, hx, -, hc, -⟩, -⟩, -⟩ := h
    have hx' : (lostPort.port .f).lostFrame = some { frame := Assembly.empty.push t5.dest, moment := 20000 } := by decide +kernel
    rw [hx'] at hx
    cases hx
    exact absurd hc (by decide +kernel)

/-- A one-byte frame, and a frame of seven bytes with a wrong check word. -/
theorem witness_WrongCheckWordIsCounted :
    receiving .c before1 = true ∧ (before1.port .c).assembly = some (Assembly.empty.push 120) ∧ ([120] : List Byte).length < 7 ∧
      ([120, 0, 0, 0, 0, 0, 0] : List Byte).drop 5 ≠ halfBytes (crcOf (([120, 0, 0, 0, 0, 0, 0] : List Byte).take 5)) := by
  decide +kernel

/-- The bytes of a frame after its first, closed with the right check word. -/
def closed (body : List Byte) : List Byte := body.drop 1 ++ halfBytes (crcOf body)

/-- Frames with a right check word: a length field of 241, a length that does not fit, kind codes 0 and 7, a nonzero high
bit beside the tag; and a well-formed one of three payload bytes. -/
theorem witness_IllFormedFrameIsCounted :
    let frame (body : List Byte) : Assembly := (Assembly.empty.push 120).pushAll (closed body)
    receiving .c before1 = true ∧ (before1.port .c).assembly = some (Assembly.empty.push 120) ∧
      (∀ body ∈ ([[120, 12, 0x23, 7, 241], [120, 12, 0x23, 7, 1], [120, 12, 0x03, 7, 0],
            [120, 12, 0xE3, 7, 0], [120, 12, 0x23, 64, 0]] : List (List Byte)),
          (frame body).checkWordRight = true ∧ (frame body).telegram = none) ∧
      (frame ([120, 12, 0x23, 7, 3, 0xFF, 0, 1])).checkWordRight = true ∧
      ((frame ([120, 12, 0x23, 7, 3, 0xFF, 0, 1])).telegram).isSome = true := by decide +kernel

/-- A frame that carries `t` ends at `p`. -/
theorem framed_of (p : Port) (t : Telegram) (s : State)
    (h : (s.port p).assembly.map (fun a => ((a.pushAll (t.frame.drop 1)).checkWordRight, (a.pushAll (t.frame.drop 1)).telegram)) =
      some (true, some t)) : Framed p (t.frame.drop 1) s t := by
  cases ha : (s.port p).assembly with
  | none => rw [ha] at h; cases h
  | some a =>
    rw [ha] at h
    simp only [Option.map_some, Option.some.injEq, Prod.mk.injEq] at h
    exact ⟨a, ha, h.1, h.2⟩

/-- Source 240, the gate as source, destination 240, a POLL to 255, a NOTE to the gate; reach 0; a HALTED gate. -/
theorem witness_IntakeDiscardsWithOneCount :
    (∀ t ∈ [{ t1 with source := 240 }, { t1 with source := 200 }, { t1 with dest := 240 }, { t1 with dest := 255 },
          { t7 with dest := 200 }],
        receiving .c (hearing .c t gate) = true ∧ Framed .c (t.frame.drop 1) (hearing .c t gate) t ∧
          (¬WellAddressed (hearing .c t gate).station t ∨ (t.dest = (hearing .c t gate).station ∧ t.kind ≠ .order))) ∧
      (Framed .c (({ t1 with reach := 0 } : Telegram).frame.drop 1) (hearing .c t1 gate) { t1 with reach := 0 } ∧
        WellAddressed (hearing .c t1 gate).station { t1 with reach := 0 }) ∧
      receiving .c (hearing .c t1 haltedGate) = true ∧ Framed .c (t1.frame.drop 1) (hearing .c t1 haltedGate) t1 ∧
      WellAddressed (hearing .c t1 haltedGate).station t1 ∧ (hearing .c t1 haltedGate).gate = .halted := by
  refine ⟨?_, ⟨framed_of _ _ _ (by decide +kernel), ?_⟩, by decide +kernel, framed_of _ _ _ (by decide +kernel), ?_, rfl⟩
  · intro t ht
    refine ⟨?_, framed_of _ _ _ ?_, ?_⟩
    · revert t; decide +kernel
    · revert t; decide +kernel
    · simp only [WellAddressed]; revert t; decide +kernel
  · simp only [WellAddressed]; decide +kernel
  · simp only [WellAddressed]; decide +kernel

/-- A HOLD from station 20 as a telegram to the gate. -/
def holdTelegram : Telegram :=
  { dest := 200, source := 20, kind := .order, mark := false, reach := 0, tag := 1, payload := [0x0A, 1] }

/-- HOLD, a code of no order and an empty payload, as frames. -/
theorem witness_FrameEndDeliversAnOrder :
    let brings (payload : List Byte) : Prop :=
      let t : Telegram := { holdTelegram with payload := payload }
      Framed .c (t.frame.drop 1) (hearing .c t gate) t ∧ WellAddressed (hearing .c t gate).station t ∧
        t.dest = (hearing .c t gate).station ∧ t.kind = .order
    brings [OrderCode.hold.byte, 1] ∧ (brings [0x18] ∧ ([0x18] : List Byte).head?.any orderCodeAssigned = false) ∧
      (brings [] ∧ ([] : List Byte).head?.any orderCodeAssigned = false) := by
  refine ⟨⟨framed_of _ _ _ (by decide +kernel), ?_, by decide, rfl⟩,
    ⟨⟨framed_of _ _ _ (by decide +kernel), ?_, by decide, rfl⟩, by decide⟩,
    ⟨framed_of _ _ _ (by decide +kernel), ?_, by decide, rfl⟩, by decide⟩ <;>
    (simp only [WellAddressed]; decide +kernel)

/-- A SNAPSHOT_READ that comes as a frame is delivered to the Order Engine (the escape of HeldSlotsKeepTheirValues). -/
theorem witness_HeldSlotsKeepTheirValues_frame :
    let t : Telegram := { holdTelegram with payload := [0x11, 0, 0, 0, 4] }
    Delivers .snapshotRead (ending .c t) (hearing .c t gate) := by
  refine .inr ⟨Since.now, .c, _, _, [0, 0, 0, 4], rfl, framed_of _ _ _ (by decide +kernel), ?_, by decide, rfl, rfl⟩
  simp only [WellAddressed]; decide +kernel

/-- A telegram whose frame ends at a SERVING gate crosses to the Classifier. -/
theorem crosses_of (p : Port) (t : Telegram) (s : State) (hr : receiving p s = true) (hg : s.gate = .serving)
    (hf : (s.port p).assembly.map (fun a =>
      ((a.pushAll (t.frame.drop 1)).checkWordRight, (a.pushAll (t.frame.drop 1)).telegram)) = some (true, some t))
    (hw : WellAddressed s.station t) (hd : t.dest ≠ s.station ∧ t.reach ≠ 0) : Crosses Since.now p (t.frame.drop 1) s t :=
  ⟨.inl ⟨hr, framed_of p t s hf⟩, hg, hw, hd.1, hd.2⟩

/-- T1 crosses, at the gate of section 2.5, with its exchange open or not. -/
theorem crosses1 (s : State) (hs : s = before1 ∨ s = before1Open) : Crosses Since.now .c (t1.frame.drop 1) s t1 := by
  rcases hs with rfl | rfl <;>
    exact crosses_of _ _ _ (by decide +kernel) rfl (by decide +kernel) (by simp only [WellAddressed]; decide +kernel)
      (by decide +kernel)

/-- The REPLY crosses. -/
theorem crosses5 : Crosses Since.now .f (t5.frame.drop 1) before5 t5 :=
  crosses_of _ _ _ (by decide +kernel) rfl (by decide +kernel) (by simp only [WellAddressed]; decide +kernel) (by decide +kernel)

/-- The REPLY crosses at a port just lost, and its decision meets an empty tracker and a gate that lets it pass to step 6 (R65). -/
theorem crossesLost :
    let u := received Since.now .f lostPort
    FramedAtLoss Since.now .f (t5.frame.drop 1) lostPort t5 ∧ ForClassifier lostPort t5 ∧ Treated u .f t5 2 rule2 ∧
      rule2.action = .track ∧ Clear .f u ∧ RateAllows rule2 t5 u ∧ SoundGroup rule2.group u ∧ SoundPet u ∧ u.pet = [] ∧
      u.ring = [] := by
  have treated : Treated (received Since.now .f lostPort) .f t5 2 rule2 := by
    simp only [Treated, PassedBelow, TakesAt, Meets]; decide +kernel
  refine ⟨⟨by decide +kernel, by decide +kernel, rfl,
      ⟨{ frame := Assembly.empty.push t5.dest, moment := 20000 }, by decide +kernel, by decide +kernel, by decide +kernel,
        by decide +kernel⟩, 2, rule2, treated, rfl⟩, ?_, treated, rfl, ?_, .inl (by decide +kernel), ?_, ?_, by decide +kernel,
    by decide +kernel⟩
  · simp only [ForClassifier, WellAddressed]; decide +kernel
  · simp only [Clear]; decide +kernel
  · intro g hg; cases hg; decide +kernel
  · simp only [SoundPet]; decide +kernel

/-- T1 is treated by rule 1, the REPLY by rule 2. -/
theorem treated1 (s : State) (hs : s = before1 ∨ s = before1Open) : Treated (received Since.now .c s) .c t1 1 rule1 := by
  rcases hs with rfl | rfl <;> simp only [Treated, PassedBelow, TakesAt, Meets] <;> decide +kernel

theorem treated5 : Treated (received Since.now .f before5) .f t5 2 rule2 := by
  simp only [Treated, PassedBelow, TakesAt, Meets]; decide +kernel

/-! ### Forward decisions -/

/-- A gate about to receive T7, the NOTE that rule 3 takes, or T1, with one circumstance changed. -/
def crossing (t : Telegram) (p : Port) (s : State) : State := hearing p t s

/-- A rule 3 that blocks. -/
def blockingRule : RuleEntry := { rule3 with action := .block, profile := none, overRate := .drop }

/-- Twelve telegrams, a full Forward Queue. -/
def fullQueue : List Forwarded := List.replicate 12 { telegram := t1, group := none }

/-- Steps 1 to 4: a rule that blocks, a hold, a DOWN line, a full queue; and a direction default that blocks. -/
theorem witness_DiscardingStepsOneToFour :
    let treats (s : State) (i : RuleIndex) (e : RuleEntry) : Prop :=
      Crosses Since.now .f (t7.frame.drop 1) (crossing t7 .f s) t7 ∧ Treated (received Since.now .f (crossing t7 .f s)) .f t7 i e
    let heldGate := { gate25 with holdUp := true }
    let downGate := { gate25 with portC := { gate25.portC with line := .down } }
    let fullGate := { gate25 with portC := { gate25.portC with forwardQ := fullQueue } }
    (treats (withRule 127 blockingRule gate) 127 blockingRule ∧ SoundGroup (some 4) (withRule 127 blockingRule gate) ∧
      blockingRule.action = .block) ∧
    (treats gate 0 (defaultEntry gate.settings .upward) ∧ (defaultEntry gate.settings .upward).action = .block) ∧
    (treats heldGate 3 rule3 ∧ rule3.action ≠ .block ∧ heldGate.hold .upward = true) ∧
    (treats downGate 3 rule3 ∧ downGate.hold .upward = false ∧ (downGate.port .c).line = .down) ∧
    (treats fullGate 3 rule3 ∧ fullGate.hold .upward = false ∧ (fullGate.port .c).line = .up ∧
      12 ≤ (fullGate.port .c).forwardQ.length) := by
  have cross (s : State) (hr : receiving .f (crossing t7 .f s) = true) (hg : (crossing t7 .f s).gate = .serving)
      (hf : ((crossing t7 .f s).port .f).assembly = some (Assembly.empty.push 12)) (hs : (crossing t7 .f s).station = 200) :
      Crosses Since.now .f (t7.frame.drop 1) (crossing t7 .f s) t7 := by
    refine crosses_of _ _ _ hr hg (by rw [hf]; decide +kernel) ?_ (by rw [hs]; decide +kernel)
    rw [hs]; simp only [WellAddressed]; decide +kernel
  refine ⟨⟨⟨cross _ (by decide +kernel) rfl rfl rfl, ?_⟩, ?_, rfl⟩, ⟨⟨cross _ (by decide +kernel) rfl rfl rfl, ?_⟩, rfl⟩,
    ⟨⟨cross _ (by decide +kernel) rfl rfl rfl, ?_⟩, by decide, rfl⟩,
    ⟨⟨cross _ (by decide +kernel) rfl rfl rfl, ?_⟩, rfl, rfl⟩,
    ⟨⟨cross _ (by decide +kernel) rfl rfl rfl, ?_⟩, rfl, rfl, by decide⟩⟩
  · simp only [Treated, PassedBelow, TakesAt, Meets]; decide +kernel
  · intro g hg; cases hg; decide +kernel
  · simp only [Treated, PassedBelow, TakesAt, Meets]; decide +kernel
  · simp only [Treated, PassedBelow, TakesAt, Meets]; decide +kernel
  · simp only [Treated, PassedBelow, TakesAt, Meets]; decide +kernel
  · simp only [Treated, PassedBelow, TakesAt, Meets]; decide +kernel

/-- Steps 2 to 4 let a telegram from Port F pass at the gate of section 2.5. -/
theorem clear_up : Clear .f (received Since.now .f (crossing t7 .f gate25)) := by simp only [Clear]; decide +kernel

/-- Over rate under DROP, over rate under MARK, and within rate with the credits just reaching the cost. -/
theorem witness_UntrackedTelegramIsRatedAndEnqueued :
    let dropGate := withRule 3 { rule3 with overRate := .drop } gate25
    let u (s : State) : State := received Since.now .f (crossing t7 .f s)
    (Treated (u dropGate) .f t7 3 { rule3 with overRate := .drop } ∧ within { rule3 with overRate := .drop } t7 (u dropGate) = false ∧
      SoundGroup (some 4) (u dropGate) ∧ Clear .f (u dropGate)) ∧
    (Treated (u gate25) .f t7 3 rule3 ∧ Clear .f (u gate25) ∧ tracked rule3 t7 = false ∧ within rule3 t7 (u gate25) = false ∧
      RateAllows rule3 t7 (u gate25)) ∧
    (within rule3 { t7 with payload := List.replicate 31 0 } (u gate25) = true) := by
  refine ⟨⟨?_, by decide +kernel, ?_, ?_⟩, ⟨?_, clear_up, by decide, by decide +kernel, .inr ⟨rfl, ?_⟩⟩, by decide +kernel⟩
  · simp only [Treated, PassedBelow, TakesAt, Meets]; decide +kernel
  · intro g hg; cases hg; decide +kernel
  · simp only [Clear]; decide +kernel
  · simp only [Treated, PassedBelow, TakesAt, Meets]; decide +kernel
  · intro g hg; cases hg; decide +kernel

/-- What T1's decision asks of the gate, before and after its exchange has opened. -/
theorem clear1 (s : State) (hs : s = before1 ∨ s = before1Open) :
    let u := received Since.now .c s
    Clear .c u ∧ RateAllows rule1 t1 u ∧ SoundGroup rule1.group u ∧ SoundPet u := by
  rcases hs with rfl | rfl <;> refine ⟨?_, .inl (by decide +kernel), ?_, ?_⟩
  all_goals first
    | (simp only [Clear]; decide +kernel)
    | (simp only [SoundPet]; decide +kernel)
    | (intro g hg; cases hg; decide +kernel)

/-- An exchange of another requester's, the `n`-th of a table. -/
def other (n : Nat) : PetEntry :=
  { exchange1 with key := { requester := BitVec.ofNat 8 (n + 50), responder := 120, tag := 7 }, slot := Fin.ofNat 64 n }

/-- An exchange of station 12's, the `n`-th. -/
def mine (n : Nat) : PetEntry :=
  { exchange1 with key := { requester := 12, responder := 121, tag := BitVec.ofNat 6 n }, slot := Fin.ofNat 64 n }

/-- T1 arrives with 63 exchanges open, three of them its requester's: one place is left in the table and one below the limit. -/
def nearlyFull : State := { before1 with pet := (List.range 3).map mine ++ (List.range' 3 60).map other }

theorem witness_PollOpensAnExchange :
    let u := received Since.now .c nearlyFull
    Crosses Since.now .c (t1.frame.drop 1) nearlyFull t1 ∧ Treated u .c t1 1 rule1 ∧ rule1.action = .track ∧ t1.kind = .poll ∧
      Clear .c u ∧ RateAllows rule1 t1 u ∧ SoundGroup rule1.group u ∧ SoundPet u ∧
      (∀ x ∈ u.pet, x.key ≠ { requester := t1.source, responder := t1.dest, tag := t1.tag }) ∧ u.pet.length < 64 ∧
      (u.pet.countP fun x => decide (x.key.requester = t1.source)) < u.settings.requesterLimit.toNat := by
  refine ⟨crosses_of _ _ _ (by decide +kernel) rfl (by decide +kernel) (by simp only [WellAddressed]; decide +kernel)
      (by decide +kernel), ?_, rfl, rfl, ?_, .inl (by decide +kernel), ?_, ?_, by decide +kernel, by decide +kernel,
    by decide +kernel⟩
  · simp only [Treated, PassedBelow, TakesAt, Meets]; decide +kernel
  · simp only [Clear]; decide +kernel
  · intro g hg; cases hg; decide +kernel
  · simp only [SoundPet]; decide +kernel

/-- The tracker of that gate is consistent. -/
theorem trackerOpen (s : State) (hs : s = before1Open ∨ s = before5) : TrackerOk s := by
  rcases hs with rfl | rfl <;> simp only [TrackerOk] <;> decide +kernel

theorem witness_PollRetriesAnExchange :
    let u := received Since.now .c before1Open
    TrackerOk before1Open ∧ Crosses Since.now .c (t1.frame.drop 1) before1Open t1 ∧ Treated u .c t1 1 rule1 ∧ Clear .c u ∧
      RateAllows rule1 t1 u ∧ SoundPet u ∧ exchange1 ∈ u.pet ∧
      exchange1.key = { requester := t1.source, responder := t1.dest, tag := t1.tag } ∧ exchange1.port = .c ∧
      exchange1.used.toNat < exchange1.allowance.toNat ∧ SoundGroup exchange1.group u :=
  ⟨trackerOpen _ (.inl rfl), crosses1 _ (.inr rfl), treated1 _ (.inr rfl), (clear1 _ (.inr rfl)).1, (clear1 _ (.inr rfl)).2.1,
    (clear1 _ (.inr rfl)).2.2.2, by decide +kernel, by decide, rfl, by decide, (clear1 _ (.inr rfl)).2.2.1⟩

theorem clear5 :
    let u := received Since.now .f before5
    Clear .f u ∧ RateAllows rule2 t5 u ∧ SoundGroup rule2.group u ∧ SoundPet u := by
  refine ⟨?_, .inl (by decide +kernel), ?_, ?_⟩
  · simp only [Clear]; decide +kernel
  · intro g hg; cases hg; decide +kernel
  · simp only [SoundPet]; decide +kernel

theorem witness_ReplyClosesAnExchange :
    let u := received Since.now .f before5
    TrackerOk before5 ∧ Crosses Since.now .f (t5.frame.drop 1) before5 t5 ∧ Treated u .f t5 2 rule2 ∧ rule2.action = .track ∧
      t5.kind = .reply ∧ Clear .f u ∧ RateAllows rule2 t5 u ∧ SoundPet u ∧ exchange1 ∈ u.pet ∧
      exchange1.key = { requester := t5.dest, responder := t5.source, tag := t5.tag } ∧ exchange1.port = Port.f.other ∧
      SoundGroup exchange1.group u :=
  ⟨trackerOpen _ (.inr rfl), crosses5, treated5, rfl, rfl, clear5.1, clear5.2.1, clear5.2.2.2, by decide +kernel, by decide,
    rfl, clear5.2.2.1⟩

/-- Each refusal's circumstance: the allowance used up, the table full, the requester's four open, the key in the ring and not. -/
theorem witness_TrackerRefusals :
    let spent := { before1Open with pet := [{ exchange1 with used := 1 }] }
    let full := { before1 with pet := (List.range 64).map other }
    let limited := { before1 with pet := (List.range 4).map mine }
    let lateGate := { before5 with pet := [], ring := [exchange1.key] }
    let noneOpen := { before5 with pet := [] }
    (TrackerOk spent ∧ Crosses Since.now .c (t1.frame.drop 1) spent t1 ∧ Treated (received Since.now .c spent) .c t1 1 rule1 ∧
      SoundPet (received Since.now .c spent)) ∧
    (TrackerOk full ∧ Crosses Since.now .c (t1.frame.drop 1) full t1 ∧ SoundPet (received Since.now .c full) ∧ full.pet.length = 64 ∧
      ∀ x ∈ full.pet, x.key ≠ { requester := t1.source, responder := t1.dest, tag := t1.tag }) ∧
    (TrackerOk limited ∧ Crosses Since.now .c (t1.frame.drop 1) limited t1 ∧ limited.pet.length < 64 ∧
      limited.settings.requesterLimit.toNat ≤ (limited.pet.countP fun x => decide (x.key.requester = t1.source)) ∧
      ∀ x ∈ limited.pet, x.key ≠ { requester := t1.source, responder := t1.dest, tag := t1.tag }) ∧
    (TrackerOk lateGate ∧ Crosses Since.now .f (t5.frame.drop 1) lateGate t5 ∧
      ({ requester := t5.dest, responder := t5.source, tag := t5.tag } : Key) ∈ lateGate.ring) ∧
    (TrackerOk noneOpen ∧ Crosses Since.now .f (t5.frame.drop 1) noneOpen t5 ∧
      ({ requester := t5.dest, responder := t5.source, tag := t5.tag } : Key) ∉ noneOpen.ring) := by
  have cross1 (s : State) (hr : receiving .c s = true) (hg : s.gate = .serving)
      (hf : (s.port .c).assembly = some (Assembly.empty.push 120)) (hs : s.station = 200) :
      Crosses Since.now .c (t1.frame.drop 1) s t1 := by
    refine crosses_of _ _ _ hr hg (by rw [hf]; decide +kernel) ?_ (by rw [hs]; decide +kernel)
    rw [hs]; simp only [WellAddressed]; decide +kernel
  have cross5 (s : State) (hr : receiving .f s = true) (hg : s.gate = .serving)
      (hf : (s.port .f).assembly = some (Assembly.empty.push 12)) (hs : s.station = 200) :
      Crosses Since.now .f (t5.frame.drop 1) s t5 := by
    refine crosses_of _ _ _ hr hg (by rw [hf]; decide +kernel) ?_ (by rw [hs]; decide +kernel)
    rw [hs]; simp only [WellAddressed]; decide +kernel
  refine ⟨⟨?_, cross1 _ (by decide +kernel) rfl rfl rfl, ?_, ?_⟩, ⟨?_, cross1 _ (by decide +kernel) rfl rfl rfl, ?_, ?_, ?_⟩,
    ⟨?_, cross1 _ (by decide +kernel) rfl rfl rfl, ?_, ?_, ?_⟩, ⟨?_, cross5 _ (by decide +kernel) rfl rfl rfl, ?_⟩,
    ⟨?_, cross5 _ (by decide +kernel) rfl rfl rfl, ?_⟩⟩
  all_goals first
    | (simp only [TrackerOk]; decide +kernel)
    | (simp only [Treated, PassedBelow, TakesAt, Meets]; decide +kernel)
    | (simp only [SoundPet]; decide +kernel)

/-- A rule that tracks, marks over rate and names group 5 and profile 4. -/
def markingRule : RuleEntry := { rule1 with overRate := .mark, group := some 5 }

/-- T1 repeated over rate: the exchange carries group 3, the telegram's treatment group 5. -/
def markedRetry : State :=
  { withRule 1 markingRule before1Open with profiles := before1Open.profiles.set 4 (profile .perTelegram 2 0) }

/-- A corrupt entry that the lookup reads, a corrupt exchange that the search reads; the corrupt group of a discard at steps 1, 2, 5
and 6; of an opening; of a marked retry's exchange and of its telegram; of an untracked marked telegram. -/
theorem witness_ForwardDecisionFaultsHalt :
    let uC (s : State) : State := received Since.now .c s
    let uF (s : State) : State := received Since.now .f s
    let bad := corruptEntryA 0 before1
    let badSlot := corruptSlot 0 before1Open
    let blocked := corruptGroup 4 (crossing t7 .f (withRule 127 blockingRule gate))
    let held := corruptGroup 3 { before1 with holdDown := true }
    let dropped := corruptGroup 3 { before1 with profiles := before1.profiles.set 4 (profile .perTelegram 2 0) }
    let spent := corruptGroup 3 { before1Open with pet := [{ exchange1 with used := 1 }] }
    let late := corruptGroup 3 { before5 with pet := [], ring := [exchange1.key] }
    let opened := corruptGroup 3 before1
    let marked := corruptGroup 4 (crossing t7 .f gate25)
    (PassedBelow ((uC bad).bank (uC bad).activeBank) .downward t1 0 ∧
      (((uC bad).bank (uC bad).activeBank)[0]).sound = false) ∧
    (Treated (uC badSlot) .c t1 1 rule1 ∧ tracked rule1 t1 = true ∧ ReachesTracker .c rule1 t1 (uC badSlot) ∧
      (uC badSlot).pet = [] ++ exchange1 :: [] ∧ (uC badSlot).petSound[exchange1.slot] = false) ∧
    (EndsAt .f blockingRule t7 (uF blocked) .blocked ∧ (uF blocked).tallies[4].sound = false) ∧
    (EndsAt .c rule1 t1 (uC held) .held ∧ (uC held).tallies[3].sound = false) ∧
    (EndsAt .c rule1 t1 (uC dropped) .overRateDropped ∧ (uC dropped).tallies[3].sound = false) ∧
    (EndsAt .c rule1 t1 (uC spent) .retryRefused ∧ (uC spent).tallies[3].sound = false) ∧
    (EndsAt .f rule2 t5 (uF late) .late ∧ (uF late).tallies[3].sound = false) ∧
    (ReachesTracker .c rule1 t1 (uC opened) ∧ (uC opened).tallies[3].sound = false ∧
      ∃ v, CarriedOut .c 1 rule1 t1 (uC opened) v (some (some 3, .opened))) ∧
    (Treated (uC markedRetry) .c t1 1 markingRule ∧ ReachesTracker .c markingRule t1 (uC markedRetry) ∧
      within markingRule t1 (uC markedRetry) = false ∧ SoundPet (uC markedRetry) ∧
      (uC (corruptGroup 3 markedRetry)).tallies[3].sound = false ∧ (uC (corruptGroup 5 markedRetry)).tallies[5].sound = false ∧
      (uC (corruptGroup 5 markedRetry)).tallies[3].sound = true ∧
      ∃ v, CarriedOut .c 1 markingRule t1 (uC markedRetry) v (some (some 3, .retried))) ∧
    (ReachesTracker .f rule3 t7 (uF marked) ∧ within rule3 t7 (uF marked) = false ∧ (uF marked).tallies[4].sound = false ∧
      CarriedOut .f 3 rule3 t7 (uF marked) (charged rule3 t7 (uF marked)) none) := by
  refine ⟨⟨fun j hj => absurd hj (Nat.not_lt_zero _), by decide +kernel⟩,
    ⟨?_, by decide, ?_, by decide +kernel, by decide +kernel⟩, ⟨rfl, by decide +kernel⟩, ⟨⟨by decide, rfl⟩, by decide +kernel⟩,
    ⟨⟨by decide, ?_, by decide +kernel, rfl⟩, by decide +kernel⟩, ⟨⟨⟨?_, rfl, rfl, ?_⟩, ?_⟩, by decide +kernel⟩,
    ⟨⟨⟨?_, rfl, rfl, ?_⟩, ?_, ?_⟩, by decide +kernel⟩,
    ⟨?_, by decide +kernel, _, .inr (.inl ⟨rfl, rfl, ?_, ?_, ?_, rfl, 0, ?_, ?_, rfl⟩)⟩,
    ⟨?_, ?_, by decide +kernel, ?_, by decide +kernel, by decide +kernel, by decide +kernel, _,
      .inr (.inr (.inl ⟨exchange1, ?_, rfl, rfl, rfl, rfl, ?_, rfl, rfl⟩))⟩,
    ⟨?_, by decide +kernel, by decide +kernel, .inl ⟨by decide, rfl, rfl⟩⟩⟩
  all_goals first
    | (simp only [ReachesTracker, Clear]; decide +kernel)
    | (simp only [Treated, PassedBelow, TakesAt, Meets]; decide +kernel)
    | (simp only [SoundPet]; decide +kernel)
    | decide +kernel

/-! ### Events -/

/-- A forwarded telegram of group 3. -/
def forwarded1 : Forwarded := { telegram := t1, group := some 3 }

/-- A gate whose Port F sends a telegram. -/
def sending (x : TxItem) (s : State) : State := { s with portF := { s.portF with sending := some (busyWith x) } }

/-- The four ways a transmission completes. -/
theorem witness_TransmitCompletion :
    let done (s : State) (x : TxItem) : State :=
      ((lapse Since.now s).reach (busyWith x).ends).onPort .f fun q => { q with sending := none }
    let first := sending (.forwarded forwarded1) gate
    let bad := corruptGroup 3 first
    let answering := sending (.own { telegram := ownNote, restartAnswer := true }) restartingGate
    ((first.port .f).sending = some (busyWith (.forwarded forwarded1)) ∧
      SoundGroup (some 3) (done first (.forwarded forwarded1))) ∧
    ((bad.port .f).sending = some (busyWith (.forwarded forwarded1)) ∧
      (done bad (.forwarded forwarded1)).tallies[3].sound = false ∧ bad.gate = .serving) ∧
    ((busyGate.port .f).sending = some busy ∧ busyGate.slot.state ≠ .restarting) ∧
    ((answering.port .f).sending = some (busyWith (.own { telegram := ownNote, restartAnswer := true })) ∧
      answering.slot.state = .restarting) := by
  refine ⟨⟨rfl, ?_⟩, ⟨rfl, by decide +kernel, rfl⟩, ⟨rfl, by decide⟩, rfl, rfl⟩
  intro g hg; cases hg; decide +kernel

/-- A signal that changes, one that does not, one at a gate held in reset, and a presence timed on a DOWN line. -/
theorem witness_LineMonitor :
    let down := { gate with portF := { gate.portF with line := .down, timing := some 100 } }
    (gate.inReset = false ∧ (gate.port .f).signal ≠ false ∧ (gate.port .f).signal = true) ∧
      ({ gate with inReset := true, gate := .starting } : State).inReset = true ∧
      (down.inReset = false ∧ (down.port .f).line = .down ∧ (down.port .f).timing = some 100 ∧ LinesOk down ∧
        (down.port .f).sending = none) := by
  refine ⟨by decide, rfl, rfl, rfl, rfl, ?_, rfl⟩
  simp only [LinesOk, queuesOk, downOk]; decide +kernel

/-- An absence timed at Port F, with a telegram sent and one queued there, an open exchange, and a restart that waits there; a wrong
group of the telegram sent, and, with sound groups, a wrong exchange. -/
theorem witness_LineLoss :
    let s := { gateOpen with
      portF := { gateOpen.portF with timing := some 0, sending := some (busyWith (.forwarded forwarded1)),
                                     forwardQ := [forwarded1] } }
    let waiting := { s with slot := .restarting { port := .f, limit := 80000 } }
    let u (s : State) : State := (lapse Since.now s).reach (0 + 5 * 4000)
    let lost := [forwarded1, forwarded1]
    (s.inReset = false ∧ (s.port .f).line = .up ∧ (s.port .f).timing = some 0 ∧ SoundPet (u s) ∧
      (∀ x ∈ lost, SoundGroup x.group (u s)) ∧ (∀ x ∈ s.pet, SoundGroup x.group (u s)) ∧
      (∀ r, s.slot = .restarting r → r.port ≠ .f) ∧ waiting.slot = .restarting { port := .f, limit := 80000 }) ∧
    QueueFault lost [] 3 (u (corruptGroup 3 s)) ∧
    (∀ x ∈ lost, SoundGroup x.group (u (corruptSlot 0 s))) ∧
    FlushFault (corruptSlot 0 s).pet [] (.exchangeStore 0) (u (corruptSlot 0 s)) := by
  refine ⟨⟨rfl, rfl, rfl, ?_, ?_, ?_, ?_, rfl⟩, ⟨forwarded1, [forwarded1], rfl, fun _ h => (List.not_mem_nil h).elim, rfl,
    by decide +kernel⟩, ?_, exchange1, [], rfl, fun _ h => (List.not_mem_nil h).elim, .inl ⟨by decide +kernel, rfl⟩⟩
  · simp only [SoundPet]; decide +kernel
  · intro x hx g hg
    rw [show x = forwarded1 by simpa using hx] at hg
    cases hg
    decide +kernel
  · intro x hx g hg
    rw [show x = exchange1 from List.mem_singleton.mp hx] at hg
    cases hg
    decide +kernel
  · intro r hr; cases hr
  · intro x hx g hg
    rw [show x = forwarded1 by simpa using hx] at hg
    cases hg
    decide +kernel

/-- The line loss that `lostPort` comes from, and the REPLY that ends there (the last clause of LineLoss). -/
theorem witness_LineLoss_reply :
    let s := (hearing .f t5 gateOpen).onPort .f fun q => { q with timing := some 0 }
    (s.inReset = false ∧ (s.port .f).line = .up ∧ (s.port .f).timing = some 0) ∧
      exec (.lineLoss Since.now .f) s = .next lostPort ∧
      FramedAtLoss Since.now .f (t5.frame.drop 1) lostPort t5 ∧ ForClassifier lostPort t5 ∧
      Treated (received Since.now .f lostPort) .f t5 2 rule2 ∧ Clear .f (received Since.now .f lostPort) ∧
      RateAllows rule2 t5 (received Since.now .f lostPort) ∧ SoundGroup rule2.group (received Since.now .f lostPort) :=
  ⟨⟨rfl, rfl, rfl⟩, rfl, crossesLost.1, crossesLost.2.1, crossesLost.2.2.1, crossesLost.2.2.2.2.1, crossesLost.2.2.2.2.2.1,
    crossesLost.2.2.2.2.2.2.1⟩

theorem witness_DeadlineExpiryLapses :
    let quiet := { gateOpen with pet := [{ exchange1 with notice := false }] }
    let bad := corruptSlot 0 gateOpen
    TrackerOk gateOpen ∧ exchange1 ∈ gateOpen.pet ∧ exchange1.notice = true ∧
      ((lapse Since.now gateOpen).reach exchange1.deadline).petSound[exchange1.slot] = true ∧
      SoundGroup exchange1.group ((lapse Since.now gateOpen).reach exchange1.deadline) ∧
      (TrackerOk quiet ∧ { exchange1 with notice := false } ∈ quiet.pet) ∧
      (TrackerOk bad ∧ bad.gate = .serving ∧
        ((lapse Since.now bad).reach exchange1.deadline).petSound[exchange1.slot] = false) ∧
      ((lapse Since.now (corruptGroup 3 gateOpen)).reach exchange1.deadline).tallies[3].sound = false := by
  refine ⟨?_, by decide, rfl, by decide +kernel, ?_, ⟨?_, by decide⟩, ⟨?_, rfl, by decide +kernel⟩, by decide +kernel⟩
  · simp only [TrackerOk]; decide +kernel
  · intro g hg; cases hg; decide +kernel
  · simp only [TrackerOk]; decide +kernel
  · simp only [TrackerOk]; decide +kernel

theorem witness_PeriodExpiryRefills :
    let s := { gate with profiles := gate.profiles.set 15 (profile .perSize 255 254) }
    s.profiles[15].capacity ≠ 0 ∧ s.profiles[15].nextExpiry = some 80000 := by decide +kernel

/-- The last entry of a bank fails the last check. -/
theorem witness_ValidationFindsTheFirstFailure :
    let bank := RuleBank.reset.set 127 (Checked.fresh { rule3 with profile := none, notice := true })
    bankFailure gate.profiles bank = some (.trackFields, 127) ∧ bankFailure gate.profiles RuleBank.reset = none := by
  decide +kernel

theorem witness_ValidationRefuses :
    let c := commitContext (some (.undefinedProfile, 127))
    ({ gate with slot := .validating c } : State).slot = .validating c ∧ c.failure = some (.undefinedProfile, 127) :=
  ⟨rfl, rfl⟩

/-- A commit with HOLD and without KEEP, with a telegram queued and an exchange open; a wrong group of the telegram, and a wrong
exchange. -/
theorem witness_ValidationCompletes :
    let c := { commitContext none with hold := true, keep := false }
    let s := { gateOpen with slot := .validating c, portF := { gateOpen.portF with forwardQ := [forwarded1] } }
    (s.slot = .validating c ∧ c.failure = none ∧ s.gate = .serving ∧
      (∀ x ∈ s.portF.forwardQ ++ s.portC.forwardQ, SoundGroup x.group (lapse Since.now s)) ∧
      ∀ x ∈ s.pet, (lapse Since.now s).petSound[x.slot] = true ∧ SoundGroup x.group (lapse Since.now s)) ∧
    QueueFault (s.portF.forwardQ ++ s.portC.forwardQ) [] 3 (lapse Since.now (corruptGroup 3 s)) ∧
    (∀ x ∈ s.portF.forwardQ ++ s.portC.forwardQ, SoundGroup x.group (lapse Since.now (corruptSlot 0 s))) ∧
    FlushFault s.pet [] (.exchangeStore 0) (lapse Since.now (corruptSlot 0 s)) := by
  refine ⟨⟨rfl, rfl, rfl, fun x hx g hg => ?_, fun x hx => ?_⟩, ⟨forwarded1, [], rfl, fun _ h => (List.not_mem_nil h).elim, rfl,
    by decide +kernel⟩, fun x hx g hg => ?_, exchange1, [], rfl, fun _ h => (List.not_mem_nil h).elim,
    .inl ⟨by decide +kernel, rfl⟩⟩
  · rw [show x = forwarded1 from List.mem_singleton.mp hx] at hg
    cases hg
    decide +kernel
  · rw [show x = exchange1 from List.mem_singleton.mp hx]
    exact ⟨by decide +kernel, fun g hg => by cases hg; decide +kernel⟩
  · rw [show x = forwarded1 from List.mem_singleton.mp hx] at hg
    cases hg
    decide +kernel

theorem witness_StartsAndReset : restartingGate.slot = .restarting { port := .c, limit := 80000 } := rfl

/-- Every outcome of the store check, at the first and the last item of each store, and straps 1, 239, 0 and 240. -/
theorem witness_StartingEnds :
    let u (s : State) : State := lapse Since.now s
    (State.reset.gate = .starting ∧ State.reset.inReset = false) ∧
    ((∀ i : RuleIndex, (u State.reset).bankA[i].sound = true) ∧ (∀ i : RuleIndex, (u State.reset).bankB[i].sound = true) ∧
      (∀ i : Fin 64, (u State.reset).petSound[i] = true) ∧ ∀ g : Group, (u State.reset).tallies[g].sound = true) ∧
    ((u (corruptEntryA 0 State.reset)).bankA[0].sound = false ∧
      (∀ j : RuleIndex, j < 127 → (u (corruptEntryB 127 State.reset)).bankB[j].sound = true) ∧
      (u (corruptEntryB 127 State.reset)).bankB[127].sound = false ∧
      (∀ j : Fin 64, j < 63 → (u (corruptSlot 63 State.reset)).petSound[j] = true) ∧
      (u (corruptSlot 63 State.reset)).petSound[63] = false ∧
      (∀ j : Group, j < 31 → (u (corruptGroup 31 State.reset)).tallies[j].sound = true) ∧
      (u (corruptGroup 31 State.reset)).tallies[31].sound = false) ∧
    (∀ x ∈ ([1, 239] : List Byte), 1 ≤ x.toNat ∧ x.toNat ≤ 239) ∧ ∀ x ∈ ([0, 240] : List Byte), ¬(1 ≤ x.toNat ∧ x.toNat ≤ 239) := by
  decide +kernel

/-! ### Orders -/

/-- Field access NONE, a stored answer, a HALTED gate, INQUIRE at Port F, a slot that is VALIDATING. -/
theorem witness_OrderTestsInTheirOrder :
    let closedGate := { gate with settings := { gate.settings with access := .closed } }
    let stored : LastAnswer := { requester := 20, tag := 1, answer := buildAnswer gate 0x0B .done 0 [] }
    let repeated := { gate with portC := { gate.portC with lastAnswer := some stored } }
    (Heard .f tool closedGate ∧ closedGate.settings.access = .closed) ∧
    (Heard .c host repeated ∧ (repeated.port .c).lastAnswer = some stored ∧ stored.requester = host.source ∧ stored.tag = host.tag) ∧
    (Heard .c host haltedGate ∧ NotRepeat .c host haltedGate ∧ haltedGate.gate = .halted) ∧
    (Heard .f tool gate ∧ NotRepeat .f tool gate ∧ gate.gate = .serving ∧
      ¬(gate.settings.access = .full ∨ OrderCode.hold.cls [1] = .inquiry ∨ OrderCode.hold.cls [1] = .word)) ∧
    (Heard .c host committingGate ∧ NotRepeat .c host committingGate ∧ committingGate.gate = .serving ∧
      ¬(committingGate.slot = .idle ∨ (committingGate.slot.state = .validating ∧ OrderCode.hold.cls [1] ≠ .change) ∨
        (committingGate.slot.state = .restarting ∧ OrderCode.hold = .status))) := by
  refine ⟨⟨⟨by decide, by decide, by decide⟩, rfl⟩, ⟨heard_of _ (by decide) rfl, rfl, rfl, rfl⟩,
    ⟨heard_of _ (by decide) rfl, ?_, rfl⟩, ⟨⟨by decide, by decide, by decide⟩, ?_, rfl, by decide⟩,
    heard_of _ (by decide) rfl, ?_, rfl, ?_⟩
  · intro x hx; cases hx
  · intro x hx; cases hx
  · intro x hx; cases hx
  · rintro (h | h | h)
    · cases h
    · exact absurd rfl h.2
    · exact absurd h.2 (by decide)

/-- Codes beside the assigned ones, a repeat, a HALTED gate, field access NONE at Port F. -/
theorem witness_UnknownOrderIsAnswered :
    (Heard .c host gate ∧ gate.gate = .serving ∧ NotRepeat .c host gate) ∧
      (∀ payload ∈ ([[], [0x00], [0x18], [0x1E], [0x20], [0xFF]] : List (List Byte)),
        (payload.head?.any orderCodeAssigned) = false) ∧
      (∃ v a, Heard .c host v ∧ (v.port .c).lastAnswer = some { requester := host.source, tag := host.tag, answer := a }) ∧
      (Heard .c host haltedGate ∧ haltedGate.gate = .halted ∧ NotRepeat .c host haltedGate) ∧
      ∃ v, Heard .f tool v ∧ v.settings.access = .closed := by
  refine ⟨⟨heard_of _ (by decide) rfl, rfl, fun x hx => by cases hx⟩, by decide,
    ⟨{ gate with portC := { gate.portC with
        lastAnswer := some { requester := 20, tag := 1, answer := buildAnswer gate 0 .unknownOrder 0 [] } } }, _,
      heard_of _ (by decide) rfl, rfl⟩,
    ⟨heard_of _ (by decide) rfl, rfl, fun x hx => by cases hx⟩,
    { gate with settings := { gate.settings with access := .closed } }, ⟨by decide, by decide, by decide⟩, rfl⟩

/-- A surplus byte of an order without parameters; a missing byte, the values beside each range's ends and a surplus byte of the
others; and the longest parameters that have no fault. -/
theorem witness_BadParamAtTheFirstFault :
    let fault (k : OrderCode) (args : List Byte) : Option (Option Nat) := (parametersOf k).map fun xs => firstFault [] xs args
    (Heard .c host gate ∧ ∀ k args, Admitted k args .c host gate) ∧
      fault .status [0] = some (some 1) ∧ fault .status [] = some none ∧ fault .hold [] = some (some 1) ∧
      fault .hold [4] = some (some 1) ∧ fault .hold [0] = some (some 1) ∧ fault .hold [3, 0] = some (some 2) ∧
      fault .hold [3] = some none ∧ fault .rulesRead [1, 127, 2] = some (some 3) ∧ fault .rulesRead [1, 128] = some (some 2) ∧
      fault .rulesRead [1, 112, 17] = some (some 3) ∧ fault .rulesRead [1, 112, 16] = some none ∧
      fault .wordRead [15, 0] = some (some 2) ∧ fault .wordRead [15, 2] = some (some 2) ∧ fault .wordRead [15, 1] = some none ∧
      fault .profileWrite [15, 0, 1, 3, 233, 1] = some (some 4) ∧ fault .profileWrite [15, 0, 1, 0, 0, 1] = some (some 4) ∧
      fault .profileWrite [15, 0, 1, 3] = some (some 5) ∧ fault .profileWrite [15, 0, 0] = some (some 3) ∧
      fault .profileWrite [15, 0, 1, 3, 232, 2] = some (some 6) ∧ fault .profileWrite [15, 0, 1, 3, 232, 1] = some none ∧
      fault .snapshot [0, 0, 0] = some (some 4) ∧ fault .snapshot [0, 0, 0, 0, 2] = some (some 5) ∧
      parametersOf .configWrite = none ∧ parametersOf .stageWrite = none ∧ parametersOf .wordWrite = none :=
  ⟨⟨(witness_orders .status []).1, fun k args => (witness_orders k args).2⟩, by decide +kernel⟩

/-- STATUS at a HALTED gate and while a restart is pending. -/
theorem witness_StatusReports :
    (Heard .c host gate ∧ Admitted .status [] .c host gate) ∧ (Heard .c host haltedGate ∧ Admitted .status [] .c host haltedGate) ∧
      (Heard .c host restartingGate ∧ Admitted .status [] .c host restartingGate) :=
  ⟨witness_orders _ _,
    ⟨heard_of _ (by decide) rfl, .inr (.inl rfl), .inl rfl, .inl rfl, fun _ hx => by cases hx⟩,
    heard_of _ (by decide) rfl, .inl rfl, .inl rfl, .inr (.inr ⟨rfl, rfl⟩), fun _ hx => by cases hx⟩

/-- Settings at the ends of their ranges; every mask, the empty and the whole one among them, and the values beside each range. -/
theorem witness_SettingsAreReadAndWritten :
    let x : Settings :=
      { actionDown := .pass, actionUp := .block, groupDown := some 31, groupUp := none, requesterLimit := 16,
        classMs := #v[1, 65535, 1, 1], access := .full, noticeC := some 239, noticeF := none, answerReach := 1 }
    (Heard .c host gate ∧ (∀ k args, Admitted k args .c host gate) ∧ SettingsOk { gate with settings := x }) ∧
      (namedBytes 0 13 x = [] ∧ namedBytes 8191 13 x = settingsBytes x ∧ namedBytes 0x1050 13 x = [16, 0xFF, 0xFF, 1] ∧
        (8191 : Half).toNat < 8192) ∧
      ((chosenFields 0x1050 x gate.settings).classMs[0] = 50 ∧ (chosenFields 0x1050 x gate.settings).classMs[1] = 65535 ∧
        chosenFields 0 x gate.settings = gate.settings ∧ chosenFields 8191 x gate.settings = x) ∧
      (∀ y ∈ ([(0, 2), (1, 255), (2, 32), (3, 254), (4, 0), (4, 17), (9, 3), (10, 0), (10, 240), (11, 254), (12, 0),
          (12, 16)] : List (Fin 13 × Byte)), FieldOutOfRange y.1 [y.2]) ∧
      FieldOutOfRange 5 [0, 0] ∧ FieldOutOfRange 8 [0, 0] := by
  refine ⟨⟨(witness_orders .configRead []).1, fun k args => (witness_orders k args).2, ?_⟩, by decide +kernel, by decide +kernel,
    ?_, rfl, rfl⟩
  · exact ⟨by decide, by decide, by decide, by decide, fun n hn => by cases hn; decide, fun n hn => by cases hn⟩
  · intro y hy
    fin_cases hy <;> exact ⟨_, rfl, by decide⟩

/-- The last sixteen entries, sound; and the last one wrong. -/
theorem witness_RulesReadReturnsTheEntries :
    let bad := corruptEntryA 127 gate
    (Heard .c host gate ∧ Admitted .rulesRead [0, byteOf 112, byteOf 16] .c host gate ∧ (112 + 16 ≤ 128)) ∧
      (∀ j : RuleIndex, ((arrived Since.now .c gate).bank .a)[j].sound = true) ∧
      (Heard .c host bad ∧ Admitted .rulesRead [0, byteOf 112, byteOf 16] .c host bad ∧ bad.gate = .serving ∧
        (∀ j : RuleIndex, j < 127 → ((arrived Since.now .c bad).bank .a)[j].sound = true) ∧
        ((arrived Since.now .c bad).bank .a)[127].sound = false) :=
  ⟨⟨(witness_orders .rulesRead []).1, (witness_orders _ _).2, by decide⟩, by decide +kernel,
    heard_of _ (by decide) rfl, admitted_of _ _ _ rfl rfl rfl, rfl, by decide +kernel, by decide +kernel⟩

/-- One entry at the last index; no entry, sixteen entries and a short one; the bytes beside each range. -/
theorem witness_StageWriteReplacesEntries :
    (Heard .c host gate ∧ (∀ args, Admitted .stageWrite args .c host gate) ∧ (∀ e ∈ List.replicate 16 rule1, EntryOk e) ∧
      127 + [rule1].length = 128 ∧ (List.replicate 16 rule1).length = 16) ∧
      (∀ y ∈ ([(0, 0x18), (1, 0), (2, 240), (3, 0), (4, 254), (6, 32), (7, 16), (8, 16)] : List (Nat × Byte)),
        ¬EntryByteOk y.1 y.2) ∧
      ∀ y ∈ ([(0, 0xF7), (1, 1), (2, 239), (3, 255), (4, 255), (5, 0xFF), (6, 255), (7, 15), (8, 15)] : List (Nat × Byte)),
        EntryByteOk y.1 y.2 := by
  refine ⟨⟨(witness_orders .stageWrite []).1, fun args => (witness_orders _ args).2, fun e he => ?_, rfl, rfl⟩, ?_, ?_⟩
  · rw [List.eq_of_mem_replicate he]
    simp only [EntryOk]; decide
  · simp only [EntryByteOk]; decide
  · simp only [EntryByteOk]; decide

theorem witness_StageClearAndClone :
    let bad := corruptEntryA 127 gate
    (Heard .c host gate ∧ Admitted .stageClear [] .c host gate ∧ Admitted .stageClone [] .c host gate ∧
      ∀ i : RuleIndex, ((arrived Since.now .c gate).bank .a)[i].sound = true) ∧
    (Heard .c host bad ∧ Admitted .stageClone [] .c host bad ∧
      (∀ j : RuleIndex, j < 127 → ((arrived Since.now .c bad).bank .a)[j].sound = true) ∧
      ((arrived Since.now .c bad).bank .a)[127].sound = false) :=
  ⟨⟨(witness_orders .stageClear []).1, (witness_orders _ _).2, (witness_orders _ _).2, by decide +kernel⟩,
    heard_of _ (by decide) rfl, admitted_of _ _ _ rfl rfl rfl, by decide +kernel, by decide +kernel⟩

theorem witness_CommitIsTaken :
    let bad := corruptEntryB 0 gate
    (Heard .c host gate ∧ Admitted .commit [byteOf 3] .c host gate ∧
      ∀ i : RuleIndex, ((arrived Since.now .c gate).bank .b)[i].sound = true) ∧
    (Heard .c host bad ∧ Admitted .commit [byteOf 3] .c host bad ∧ ((arrived Since.now .c bad).bank .b)[0].sound = false) :=
  ⟨⟨(witness_orders .commit []).1, (witness_orders _ _).2, by decide +kernel⟩,
    heard_of _ (by decide) rfl, admitted_of _ _ _ rfl rfl rfl, by decide +kernel⟩

theorem witness_AbandonEndsTheCommit :
    (Heard .c host gate ∧ Admitted .abandon [] .c host gate ∧ gate.slot = .idle) ∧
      (Heard .c host committingGate ∧ Admitted .abandon [] .c host committingGate ∧
        committingGate.slot = .validating (commitContext none)) :=
  ⟨⟨(witness_orders .abandon []).1, (witness_orders _ _).2, rfl⟩,
    heard_of _ (by decide) rfl, ⟨.inl rfl, .inl rfl, .inr (.inl ⟨rfl, by decide⟩), fun _ hx => by cases hx⟩, rfl⟩

/-- One telegram queued at Port F, its group sound and wrong. -/
theorem witness_HoldAndRelease :
    let s := { busyGate with portF := { busyGate.portF with forwardQ := [forwarded1] } }
    let bad := corruptGroup 3 s
    (Heard .c host s ∧ Admitted .hold [byteOf 3] .c host s ∧ Admitted .release [byteOf 3] .c host s ∧
      ∀ x ∈ s.portF.forwardQ ++ s.portC.forwardQ, SoundGroup x.group (arrived Since.now .c s)) ∧
      (Heard .c host bad ∧ Admitted .hold [byteOf 3] .c host bad ∧
        QueueFault (bad.portF.forwardQ ++ bad.portC.forwardQ) [] 3 (arrived Since.now .c bad)) := by
  refine ⟨⟨heard_of _ (by decide) rfl, admitted_of _ _ _ rfl rfl rfl, admitted_of _ _ _ rfl rfl rfl, fun x hx g hg => ?_⟩,
    heard_of _ (by decide) rfl, admitted_of _ _ _ rfl rfl rfl, forwarded1, [], rfl, fun _ h => (List.not_mem_nil h).elim, rfl,
    by decide +kernel⟩
  rw [show x = forwarded1 from List.mem_singleton.mp hx] at hg
  cases hg
  decide +kernel

/-- The last profile; capacity 0 for a profile that no entry names, that entry 1 names, and with a wrong entry before it. -/
theorem witness_ProfilesAreReadAndWritten :
    let named := withRule 1 rule1 gate
    let bad := corruptEntryA 0 named
    (Heard .c host gate ∧ Admitted .profileRead [byteOf 15, byteOf 1] .c host gate ∧
      Admitted .profileWrite [byteOf 15, 0, 1, 3, 232, 1] .c host gate ∧
      ∀ i : RuleIndex, ((arrived Since.now .c gate).bank .a)[i].sound = true ∧
        ¬(((arrived Since.now .c gate).bank .a)[i].item.inUse = true ∧
          ((arrived Since.now .c gate).bank .a)[i].item.profile = some 15)) ∧
    (Heard .c host named ∧ Admitted .profileWrite [byteOf 4, 0, 1, 3, 232, 1] .c host named ∧
      (∀ j : RuleIndex, j < 1 → ((arrived Since.now .c named).bank .a)[j].sound = true ∧
        ((arrived Since.now .c named).bank .a)[j].item.inUse = false) ∧
      ((arrived Since.now .c named).bank .a)[1].sound = true ∧ ((arrived Since.now .c named).bank .a)[1].item.profile = some 4) ∧
    (Heard .c host bad ∧ Admitted .profileWrite [byteOf 4, 0, 1, 3, 232, 1] .c host bad ∧
      ((arrived Since.now .c bad).bank .a)[0].sound = false) :=
  ⟨⟨(witness_orders .profileRead []).1, (witness_orders _ _).2, (witness_orders _ _).2, by decide +kernel⟩,
    ⟨heard_of _ (by decide) rfl, admitted_of _ _ _ rfl rfl rfl, by decide +kernel, by decide +kernel, by decide +kernel⟩,
    heard_of _ (by decide) rfl, admitted_of _ _ _ rfl rfl rfl, by decide +kernel⟩

/-- Twenty open exchanges, listed from the eighth; and the same with a wrong check code at the first listed (section 9.8). -/
theorem witness_ExchangesAreListed :
    let s := { gate with pet := (List.range 20).map other }
    let bad := corruptSlot 8 s
    (Heard .c host s ∧ Admitted .exchangeList [8] .c host s ∧
      ∀ x ∈ (s.pet.drop 8).take 12, (arrived Since.now .c s).petSound[x.slot] = true) ∧
    (Heard .c host bad ∧ Admitted .exchangeList [8] .c host bad ∧
      (bad.pet.drop 8).take 12 = [] ++ other 8 :: ((bad.pet.drop 9).take 11) ∧
      (arrived Since.now .c bad).petSound[(other 8).slot] = false) :=
  ⟨⟨heard_of _ (by decide) rfl, admitted_of _ _ _ rfl rfl rfl, by decide +kernel⟩,
    heard_of _ (by decide) rfl, admitted_of _ _ _ rfl rfl rfl, by decide +kernel, by decide +kernel⟩

/-- An open exchange; its check code wrong, and its group's. -/
theorem witness_ExchangeFlushEmptiesTheTracker :
    (Heard .c host gateOpen ∧ Admitted .exchangeFlush [] .c host gateOpen ∧ SoundPet (arrived Since.now .c gateOpen) ∧
      ∀ x ∈ gateOpen.pet, SoundGroup x.group (arrived Since.now .c gateOpen)) ∧
      FlushFault gateOpen.pet [] (.exchangeStore 0) (arrived Since.now .c (corruptSlot 0 gateOpen)) ∧
      FlushFault gateOpen.pet [] (.tallyStore 3) (arrived Since.now .c (corruptGroup 3 gateOpen)) := by
  refine ⟨⟨heard_of _ (by decide) rfl, admitted_of _ _ _ rfl rfl rfl, ?_, fun x hx g hg => ?_⟩,
    ⟨exchange1, [], rfl, fun _ h => (List.not_mem_nil h).elim, .inl ⟨by decide +kernel, rfl⟩⟩,
    exchange1, [], rfl, fun _ h => (List.not_mem_nil h).elim, .inr ⟨by decide +kernel, 3, rfl, by decide +kernel, rfl⟩⟩
  · simp only [SoundPet]; decide +kernel
  · rw [show x = exchange1 from List.mem_singleton.mp hx] at hg
    cases hg
    decide +kernel

/-- All groups named, one of them HELD; the same with the last EMPTY one's group wrong. -/
theorem witness_SnapshotCaptures :
    let s := { gate with snapshots := gate.snapshots.set 31 (some heldSlot) }
    let bad := corruptGroup 30 s
    (Heard .c host s ∧ Admitted .snapshot (countBytes 0xFFFFFFFF ++ [1]) .c host s ∧
      ∀ g : Group, (arrived Since.now .c s).tallies[g].sound = true) ∧
      (Heard .c host bad ∧ Admitted .snapshot (countBytes 0xFFFFFFFF ++ [1]) .c host bad ∧
        ((0xFFFFFFFF : GroupSet).getLsbD 30 = true ∧ (arrived Since.now .c bad).snapshots[30] = none) ∧
        (arrived Since.now .c bad).tallies[30].sound = false ∧
        ∀ j : Group, j < 30 → (arrived Since.now .c bad).tallies[j].sound = true) :=
  ⟨⟨heard_of _ (by decide) rfl, admitted_of _ _ _ rfl rfl rfl, by decide +kernel⟩, heard_of _ (by decide) rfl,
    admitted_of _ _ _ rfl rfl rfl, by decide +kernel, by decide +kernel, by decide +kernel⟩

/-- Every slot HELD, and the third to be read wrong. -/
theorem witness_SnapshotReadEmptiesSlots :
    let s := { gate with snapshots := Vector.replicate 32 (some heldSlot) }
    let bad := { s with snapshots := s.snapshots.set 2 (some { heldSlot with sound := false }) }
    let chosen (u : State) : List Group :=
      ((List.finRange 32).filter fun g => (0xFFFFFFFF : GroupSet).getLsbD g.val && (u.snapshots[g]).isSome).take 3
    (Heard .c host s ∧ Admitted .snapshotRead (countBytes 0xFFFFFFFF) .c host s ∧
      ∀ g ∈ chosen (arrived Since.now .c s), ((arrived Since.now .c s).snapshots[g]).map Snapshot.sound = some true) ∧
      (Heard .c host bad ∧ Admitted .snapshotRead (countBytes 0xFFFFFFFF) .c host bad ∧
        chosen (arrived Since.now .c bad) = [0, 1] ++ 2 :: [] ∧
        (∀ j ∈ ([0, 1] : List Group), ((arrived Since.now .c bad).snapshots[j]).map Snapshot.sound = some true) ∧
        (arrived Since.now .c bad).snapshots[2] = some { heldSlot with sound := false }) :=
  ⟨⟨heard_of _ (by decide) rfl, admitted_of _ _ _ rfl rfl rfl, by decide +kernel⟩, heard_of _ (by decide) rfl,
    admitted_of _ _ _ rfl rfl rfl, by decide +kernel, by decide +kernel, by decide +kernel⟩

/-- TALLY_CLEAR, EXCHANGE_FLUSH, PORT_COUNTERS, CAPTURE_READ and CAPTURE_CLEAR need no more than a SERVING gate. -/
theorem witness_TallyClearZeroes : Admitted .tallyClear (countBytes 0xFFFFFFFF) .c host gate := (witness_orders _ _).2

theorem witness_PortCountersAreReadAndCleared : Admitted .portCounters [byteOf 3, 1] .c host gate := (witness_orders _ _).2

theorem witness_CaptureReadTakesTheOldest :
    let s := { gate with captures := [captureRecord .c 1 0 .enqueued t1] }
    (Heard .c host gate ∧ Admitted .captureRead [] .c host gate ∧ gate.captures = []) ∧
      (Heard .c host s ∧ Admitted .captureRead [] .c host s ∧ s.captures = captureRecord .c 1 0 .enqueued t1 :: []) :=
  ⟨⟨(witness_orders .captureRead []).1, (witness_orders _ _).2, rfl⟩, heard_of _ (by decide) rfl,
    admitted_of _ _ _ rfl rfl rfl, rfl⟩

theorem witness_CaptureClearEmptiesTheQueue :
    (Heard .c host gate ∧ Admitted .captureClear [] .c host gate) ∧
      ∃ v a, Heard .c host v ∧ (v.port .c).lastAnswer = some { requester := host.source, tag := host.tag, answer := a } :=
  ⟨witness_orders _ _,
    { gate with portC := { gate.portC with
        lastAnswer := some { requester := 20, tag := 1, answer := buildAnswer gate 0x15 .done 0 [] } } }, _,
    heard_of _ (by decide) rfl, rfl⟩

/-- The last word alone, and the notice word of the other side. -/
theorem witness_WordReadReturnsTheWords :
    Heard .c host gate ∧ Admitted .wordRead [byteOf 15, byteOf 1] .c host gate ∧ (15 + 1 ≤ 16) ∧ ¬(15 ≤ 8) ∧
      Admitted .wordRead [byteOf 8, byteOf 1] .c host gate :=
  ⟨(witness_orders .wordRead []).1, (witness_orders _ _).2, by decide, by decide, (witness_orders _ _).2⟩

/-- The words 7 and 8 from Port C; the words 0 to 7 with no notice station, a full Local Queue, and room. -/
theorem witness_WordWriteWritesAndNotifies :
    (∀ args, Admitted .wordWrite args .c host gate) ∧
    let told := { gate with settings := { gate.settings with noticeF := some 239 } }
    let own : Own := { telegram := ownNote, restartAnswer := false }
    let full := { told with portF := { told.portF with sending := some busy, localQ := [own, own, own, own] } }
    let one (first : Nat) : List Byte := byteOf first :: ([0xFFFF] : List Half).flatMap halfBytes
    (Heard .c host gate ∧ Admitted .wordWrite (one 8) .c host gate ∧ ¬(8 + 1 ≤ 8)) ∧
      (Admitted .wordWrite (one 7) .c host gate ∧ 7 + 1 ≤ 8) ∧
      (Admitted .wordWrite (one 0) .c host gate ∧ gate.settings.noticeStation .f = none) ∧
      (Heard .c host full ∧ Admitted .wordWrite (one 0) .c host full ∧ (full.port .f).noticePending = false ∧
        full.settings.noticeStation .f = some 239 ∧ (full.port .f).line = .up ∧ 4 ≤ (full.port .f).localQ.length) ∧
      (Heard .c host told ∧ Admitted .wordWrite (one 0) .c host told ∧ (told.port .f).localQ.length < 4) :=
  ⟨fun args => (witness_orders _ args).2, ⟨(witness_orders .wordWrite []).1, (witness_orders _ _).2, by decide⟩,
    ⟨(witness_orders _ _).2, by decide⟩,
    ⟨(witness_orders _ _).2, rfl⟩,
    ⟨heard_of _ (by decide) rfl, admitted_of _ _ _ rfl rfl rfl, rfl, rfl, rfl, by decide⟩,
    heard_of _ (by decide) rfl, admitted_of _ _ _ rfl rfl rfl, by decide⟩

/-- A free transmitter, a busy one, and a full Local Queue behind a busy one; RESTART during a commit; RESTART of a HALTED gate. -/
theorem witness_RestartIsPending :
    let own : Own := { telegram := ownNote, restartAnswer := false }
    let full := { gate with portC := { gate.portC with sending := some busy, localQ := [own, own, own, own] } }
    (Heard .c host gate ∧ Admitted .restart [] .c host gate ∧ (gate.port .c).sending = none ∧ (gate.port .c).localQ = []) ∧
      (Heard .c host busyGate ∧ Admitted .restart [] .c host busyGate ∧ (busyGate.port .c).sending ≠ none ∧
        (busyGate.port .c).localQ.length < 4) ∧
      (Heard .c host full ∧ Admitted .restart [] .c host full ∧ (full.port .c).localQ.length = 4) ∧
      (Heard .c host committingGate ∧ Admitted .restart [] .c host committingGate) ∧
      (Heard .c host haltedGate ∧ Admitted .restart [] .c host haltedGate) :=
  ⟨⟨(witness_orders .restart []).1, (witness_orders _ _).2, rfl, rfl⟩,
    ⟨heard_of _ (by decide) rfl, admitted_of _ _ _ rfl rfl rfl, by decide, by decide⟩,
    ⟨heard_of _ (by decide) rfl, admitted_of _ _ _ rfl rfl rfl, rfl⟩,
    ⟨heard_of _ (by decide) rfl, .inl rfl, .inl rfl, .inr (.inl ⟨rfl, by decide⟩), fun _ hx => by cases hx⟩,
    heard_of _ (by decide) rfl, .inr (.inr rfl), .inl rfl, .inl rfl, fun _ hx => by cases hx⟩

end Sys2Proof.Tests
end

section
/-! Proofs about the intake of a frame (chapter 1): what the receive assembly holds after any bytes, what its first two checks then
come to in terms of those bytes, and the two obligations on frames that intake discards (R5, R6). -/

namespace Sys2Proof.Proofs

open Sys2Proof.Machine Sys2Proof.Laws

/-! ## The receive assembly after any bytes (R2, R4) -/

/-- What R2 and R4 have an assembly hold of the bytes received: the first 247, their number, the check word of all but the last two,
and the last two. -/
def assembled (bytes : List Byte) : Assembly :=
  { stored := bytes.take Config.assemblyCapacity, length := bytes.length, crc := crcOf (bytes.take (bytes.length - 2)),
    tail := bytes.drop (bytes.length - 2) }

@[simp] theorem assembled_length (bytes : List Byte) : (assembled bytes).length = bytes.length := rfl

theorem crcOf_concat (bytes : List Byte) (x : Byte) : crcOf (bytes ++ [x]) = crcByte (crcOf bytes) x := by
  simp [crcOf]

/-- Storing a byte while there is room is what taking one byte more of a frame comes to (R2). -/
theorem take_concat (n : Nat) (bytes : List Byte) (x : Byte) :
    (if bytes.length < n then bytes.take n ++ [x] else bytes.take n) = (bytes ++ [x]).take n := by
  split
  · rw [List.take_of_length_le (by omega), List.take_of_length_le (by simp; omega)]
  · rw [List.take_append_of_le_length (by omega)]

/-- A byte pushed out of the last two is the one that the check word takes in (R4). -/
theorem push_assembled (bytes : List Byte) (x : Byte) : (assembled bytes).push x = assembled (bytes ++ [x]) := by
  have hstored := take_concat Config.assemblyCapacity bytes x
  rcases bytes.eq_nil_or_concat' with rfl | ⟨front, lo, rfl⟩
  · rfl
  rcases front.eq_nil_or_concat' with rfl | ⟨front, hi, rfl⟩
  · rfl
  · have hcrc : crcByte (crcOf front) hi = crcOf ((front ++ [hi, lo, x]).take (front.length + 1)) := by
      simp [← crcOf_concat, List.take_append, List.take_of_length_le]
    simpa [assembled, Assembly.push, hcrc] using hstored

/-- The assembly after any bytes (R2, R4). -/
theorem pushAll_empty (bytes : List Byte) : Assembly.empty.pushAll bytes = assembled bytes := by
  induction bytes using List.reverseRecOn with
  | nil => rfl
  | append_singleton bytes x ih =>
    rw [← push_assembled, ← ih]
    simp [Assembly.pushAll]

theorem push_pushAll_empty (first : Byte) (rest : List Byte) :
    (Assembly.empty.push first).pushAll rest = assembled (first :: rest) :=
  pushAll_empty (first :: rest)

/-! ## The first two intake checks, in the frame's bytes (R5, R6) -/

/-- The first check compares the frame's last two bytes with the check word of the others (R5). -/
theorem checkWordRight_assembled (bytes : List Byte) :
    (assembled bytes).checkWordRight = true ↔
      7 ≤ bytes.length ∧ bytes.drop (bytes.length - 2) = halfBytes (crcOf (bytes.take (bytes.length - 2))) := by
  rw [Assembly.checkWordRight, Bool.and_eq_true, decide_eq_true_eq, decide_eq_true_eq]
  rfl

/-- Codes 0 and 7 are the undefined ones (R203). -/
theorem kindOf_eq_none_iff (x : BitVec 3) : kindOf x = none ↔ x.toNat = 0 ∨ x.toNat = 7 := by
  revert x; decide

theorem kindField_toNat (x : Byte) : (x.extractLsb' 5 3).toNat = x.toNat / 32 := by
  have := x.isLt
  rw [BitVec.extractLsb'_toNat, Nat.shiftRight_eq_div_pow]
  omega

/-- The two high bits of the tag byte are clear exactly below 64 (R203). -/
theorem tagHigh_ne_zero_iff (x : Byte) : x.extractLsb' 6 2 ≠ 0 ↔ 64 ≤ x.toNat := by
  have := x.isLt
  have hzero : (0 : BitVec 2).toNat = 0 := rfl
  rw [Ne, ← BitVec.toNat_inj, BitVec.extractLsb'_toNat, Nat.shiftRight_eq_div_pow, hzero]
  omega

/-- A frame of five bytes or more is ill-formed exactly by R6's four conditions. -/
theorem telegram_eq_none_iff (b0 b1 b2 b3 b4 : Byte) (tail : List Byte) :
    (assembled (b0 :: b1 :: b2 :: b3 :: b4 :: tail)).telegram = none ↔
      240 < b4.toNat ∨ tail.length + 5 ≠ 7 + b4.toNat ∨ b2.toNat / 32 = 0 ∨ b2.toNat / 32 = 7 ∨ 64 ≤ b3.toNat := by
  have hkind := kindOf_eq_none_iff (b2.extractLsb' 5 3)
  rw [kindField_toNat] at hkind
  have hfive : (assembled (b0 :: b1 :: b2 :: b3 :: b4 :: tail)).stored = b0 :: b1 :: b2 :: b3 :: b4 :: tail.take 242 := rfl
  rw [Assembly.telegram, hfive]
  simp only [assembled_length, List.length_cons, tagHigh_ne_zero_iff, Config.maxPayload]
  split
  case isTrue hlong => simp [hlong]
  split
  case isTrue hlength => exact iff_of_true rfl (.inr (.inl hlength))
  split
  case isTrue htag => simp [htag]
  case isFalse hlong hlength htag =>
    cases hk : kindOf (b2.extractLsb' 5 3) with
    | none => exact iff_of_true rfl (.inr (.inr ((hkind.1 hk).imp_right .inl)))
    | some kind =>
      have hdefined : ¬(b2.toNat / 32 = 0 ∨ b2.toNat / 32 = 7) := fun h => by simp [hkind.2 h] at hk
      simp only [reduceCtorEq, false_iff]
      omega

/-! ## Frames that intake discards -/

/-- A failed first check is one count of check errors (R5). -/
theorem frameEnd_checkWordWrong (w : Since) (p : Port) (rest : List Byte) (s : State) (a : Assembly)
    (hr : receiving p s = true) (ha : (s.port p).assembly = some a) (hwrong : (a.pushAll rest).checkWordRight = false) :
    exec (.frameEnd w p rest) s =
      .next ((lapse w s).onPort p fun q => { q.count .checkErrors 1 with assembly := none }) := by
  rw [frameEnd_receiving w p rest s a hr ha, intake, hwrong, if_neg Bool.false_ne_true, bump_dropAssembly]

/-- A failed second check is one count of ill-formed (R6). -/
theorem frameEnd_illFormed (w : Since) (p : Port) (rest : List Byte) (s : State) (a : Assembly)
    (hr : receiving p s = true) (ha : (s.port p).assembly = some a) (hright : (a.pushAll rest).checkWordRight = true)
    (hnone : (a.pushAll rest).telegram = none) :
    exec (.frameEnd w p rest) s =
      .next ((lapse w s).onPort p fun q => { q.count .illFormed 1 with assembly := none }) := by
  rw [frameEnd_receiving w p rest s a hr ha, intake, hright, if_pos rfl, hnone]
  exact congrArg _ (bump_dropAssembly ..)

/-- Settles O17: the assembly's check word is that of the frame's bytes, so either premise fails the first check. -/
theorem wrongCheckWordIsCounted : Obligations.WrongCheckWordIsCounted := by
  intro w p first rest s hr ha hbad
  apply frameEnd_checkWordWrong w p rest s _ hr ha
  rw [push_pushAll_empty, ← Bool.not_eq_true, checkWordRight_assembled]
  rintro ⟨hlength, hword⟩
  rcases hbad with hshort | hdiffers
  · omega
  · exact hdiffers hword

/-- Settles O18: the four conditions are `telegram_eq_none_iff`, and a length above 247 cannot be 7 plus a field of at most 240. -/
theorem illFormedFrameIsCounted : Obligations.IllFormedFrameIsCounted := by
  intro w p first b1 b2 b3 b4 tail s hr ha rest frame hright
  have hform : frame.telegram = none ↔
      (240 < b4.toNat ∨ rest.length + 1 ≠ 7 + b4.toNat ∨ b2.toNat / 32 = 0 ∨ b2.toNat / 32 = 7 ∨ 64 ≤ b3.toNat) := by
    rw [show frame = assembled (first :: rest) from push_pushAll_empty ..]
    exact telegram_eq_none_iff ..
  refine ⟨hform, fun hlong => hform.2 ?_, frameEnd_illFormed w p rest s _ hr ha hright⟩
  omega

end Sys2Proof.Proofs
end

section
/-! Proofs about the Capture Queue (chapter 7): what CAPTURE_CLEAR does, and that a repeat of its tag executes nothing (R139, R145). -/

namespace Sys2Proof.Proofs

open Sys2Proof.Machine Sys2Proof.Laws Sys2Proof.Safety

/-! ## A repeated order (R145) -/

/-- A Last Answer Record that holds the order's source and tag makes it a repeat, whatever counts its arrival has raised. -/
theorem repeatOf_arrived (w : Since) (p : Port) (h : OrderHead) (v : State) (a : Answer)
    (hl : (v.port p).lastAnswer = some { requester := h.source, tag := h.tag, answer := a }) :
    repeatOf p h (arrived w p v) = some a := by
  have hkept : ((arrived w p v).port p).lastAnswer = (v.port p).lastAnswer := by simp [arrived, PortState.count]
  rw [repeatOf, hkept, hl]
  simp [LastAnswer.holds]

/-- The stored answer sent again is one placement at the arrival port, by the cases of R15 and R17. -/
theorem sendAnswer_resent (p : Port) (h : OrderHead) (a : Answer) (u : State) :
    Resent p h a u (sendAnswer p h.source h.tag a u) := by
  rw [sendAnswer, offer_port]
  refine ⟨by simp, ?_⟩
  rw [port_setPort_same]
  exact offer_placed ..

/-- A repeat of any order executes nothing: over its arrival's counts the stored answer is sent again and counted (R143, R145). -/
theorem order_repeated (k : OrderCode) (w : Since) (p : Port) (h : OrderHead) (args : List Byte) (v : State) (a : Answer)
    (hh : Heard p h v) (hopen : p = .c ∨ v.settings.access ≠ .closed)
    (hl : (v.port p).lastAnswer = some { requester := h.source, tag := h.tag, answer := a }) :
    ∃ t, exec (orderInstr k w p h args) v = .next t ∧
      Resent p h a ((arrived w p v).onPort p fun q => q.count .repeatsAnswered 1) t := by
  have hnotClosed : ¬(p = .f ∧ (bump p .goodReceived (dropAssembly p (lapse w v))).settings.access = .closed) := by
    rintro ⟨rfl, hclosed⟩
    exact hopen.elim (by decide) fun hne => hne (by simpa [bump, dropAssembly] using hclosed)
  have hrepeat := repeatOf_arrived w p h v a hl
  rw [← arrived_eq] at hrepeat
  refine ⟨_, ?_, sendAnswer_resent p h a _⟩
  rw [exec_orderInstr, orderRow, orderEnd_heard w p h _ v hh, takeOrder_repeat p h _ _ a hnotClosed hrepeat, arrived_eq, bump]

/-! ## CAPTURE_CLEAR (R139) -/

/-- CAPTURE_CLEAR without parameters empties the queue and is DONE with the number of records that stood in it. -/
theorem runCaptureClear_nil (s : State) :
    runCaptureClear [] s = .answered .done (halfOfNat s.captures.length) [] { s with captures := [], overflow := 0 } := rfl

@[simp] theorem arrived_captures (w : Since) (p : Port) (s : State) : (arrived w p s).captures = s.captures := by
  simp [arrived]

/-- Settles O57: the execution is `runCaptureClear_nil` on the state the order arrived in, whose queue is still that of `s`; the
answer is stored as one of an order other than STATUS, and the repeat is that of `order_repeated`. -/
theorem captureClearEmptiesTheQueue : Obligations.CaptureClearEmptiesTheQueue := by
  intro w p h s hheard hadmitted
  constructor
  · have hruns : runOrder .captureClear p h [] (arrived w p s) =
        .answered .done (halfOfNat s.captures.length) [] { arrived w p s with captures := [], overflow := 0 } := by
      rw [runOrder, runCaptureClear_nil, arrived_captures]
    exact order_answers .captureClear w p h [] s hheard hadmitted hruns (by decide)
  · intro w' v a hheard' hopen hstored
    exact order_repeated .captureClear w' p h [] v a hheard' hopen hstored

end Sys2Proof.Proofs
end

section
/-! Proofs about in-band management (chapter 8): an order whose code belongs to no order, from its delivery to its answer (R147), and
the tests that stand before that answer (R143, R145, R146). -/

namespace Sys2Proof.Proofs

open Sys2Proof.Machine Sys2Proof.Laws Sys2Proof.Safety

/-! ## The tests that every delivered order meets (R143, R145) -/

/-- Port C, or field access other than NONE, lets an order into the Order Engine, whatever its arrival has counted (R143). -/
theorem not_closed_of_letIn (w : Since) (p : Port) (s : State) (hopen : p = .c ∨ s.settings.access ≠ .closed) :
    ¬(p = .f ∧ (bump p .goodReceived (dropAssembly p (lapse w s))).settings.access = .closed) := by
  rintro ⟨rfl, hclosed⟩
  rcases hopen with hc | hne
  · exact absurd hc (by decide)
  · exact hne (by simpa [bump, dropAssembly] using hclosed)

/-- An order whose source and tag its port's Last Answer Record does not hold is still no repeat once its arrival is counted (R145). -/
theorem repeatOf_arrived_none (w : Since) (p : Port) (h : OrderHead) (s : State) (hnew : NotRepeat p h s) :
    repeatOf p h (arrived w p s) = none := by
  have hkept : ((arrived w p s).port p).lastAnswer = (s.port p).lastAnswer := by simp [arrived, PortState.count]
  rw [repeatOf, hkept]
  cases hrecord : (s.port p).lastAnswer with
  | none => rfl
  | some x => exact if_neg (by simpa [LastAnswer.holds] using hnew x hrecord)

@[simp] theorem arrived_gate (w : Since) (p : Port) (s : State) : (arrived w p s).gate = s.gate := by
  simp [arrived]

/-! ## An order of no known code (R147) -/

/-- A payload that is empty or begins with an unassigned code names no order: code 0, which the empty one stands for, is unassigned
as well (R141, R205). -/
theorem orderFor_headD_unassigned (payload : List Byte) (hcode : payload.head?.any orderCodeAssigned = false) :
    orderFor (payload.headD 0) = none := by
  cases payload with
  | nil => exact orderFor_unassigned 0 rfl
  | cons x args => exact orderFor_unassigned x hcode

/-- An unknown order that is heard is taken by the Order Engine as any other (R2, R8). -/
theorem exec_unknownOrder_heard (w : Since) (p : Port) (h : OrderHead) (payload : List Byte) (s : State) (hh : Heard p h s) :
    exec (.unknownOrder w p h payload) s =
      .next (takeOrder p h payload (bump p .goodReceived (dropAssembly p (lapse w s)))) :=
  congrArg Host.Outcome.next (orderEnd_heard w p h payload s hh)

/-- At Port F under field access NONE an unknown order leaves nothing but its counts (R143). -/
theorem unknownOrder_closed (w : Since) (h : OrderHead) (payload : List Byte) (s : State) (hh : Heard .f h s)
    (hclosed : s.settings.access = .closed) :
    exec (.unknownOrder w .f h payload) s =
      .next ((lapse w s).onPort .f fun q => { (q.count .goodReceived 1).count .ordersRefused 1 with assembly := none }) := by
  have hkept : (bump .f .goodReceived (dropAssembly .f (lapse w s))).settings.access = .closed := by
    simpa [bump, dropAssembly] using hclosed
  rw [exec_unknownOrder_heard w .f h payload s hh, takeOrder_closed h payload _ hkept]
  simp only [bump, dropAssembly, onPort_onPort]
  rfl

/-- A repeat of an unknown order gets the stored answer again, whatever that answer is (R145). -/
theorem unknownOrder_repeated (w : Since) (p : Port) (h : OrderHead) (payload : List Byte) (s : State) (a : Answer)
    (hh : Heard p h s) (hopen : p = .c ∨ s.settings.access ≠ .closed)
    (hstored : (s.port p).lastAnswer = some { requester := h.source, tag := h.tag, answer := a }) :
    ∃ t, exec (.unknownOrder w p h payload) s = .next t ∧
      Resent p h a ((arrived w p s).onPort p fun q => q.count .repeatsAnswered 1) t := by
  have hrepeat := repeatOf_arrived w p h s a hstored
  rw [← arrived_eq] at hrepeat
  refine ⟨_, ?_, sendAnswer_resent p h a _⟩
  rw [exec_unknownOrder_heard w p h payload s hh, takeOrder_repeat p h _ _ a (not_closed_of_letIn w p s hopen) hrepeat,
    arrived_eq, bump]

/-- Any other unknown order is answered with the status at which tests 2 and 3 refuse it, over its arrival alone (R144, R151). -/
theorem unknownOrder_refused (w : Since) (p : Port) (h : OrderHead) (payload : List Byte) (s : State) (status : Status)
    (hh : Heard p h s) (hcode : payload.head?.any orderCodeAssigned = false) (hopen : p = .c ∨ s.settings.access ≠ .closed)
    (hnew : NotRepeat p h s) (htest : refusal p none (payload.drop 1) (arrived w p s) = some status) (hdone : status ≠ .done) :
    Answers (.unknownOrder w p h payload) s p h (payload.headD 0) status 0 [] (storable (payload.headD 0) status)
      (arrived w p s) := by
  have hnone := repeatOf_arrived_none w p h s hnew
  rw [← orderFor_headD_unassigned payload hcode] at htest
  rw [← arrived_eq] at hnone htest
  refine ⟨_, ?_, answerOrder_replied p h (payload.headD 0) status 0 [] _ fun hrestart => hdone hrestart.2⟩
  rw [exec_unknownOrder_heard w p h payload s hh,
    takeOrder_refused p h payload _ status (not_closed_of_letIn w p s hopen) hnone htest, arrived_eq]

/-- Test 2 refuses an unknown order at a HALTED gate (R146). -/
theorem refusal_none_halted (p : Port) (args : List Byte) (s : State) (hg : s.gate = .halted) :
    refusal p none args s = some .halted := if_pos hg

/-- Test 3 refuses an unknown order at any other gate, before the rights and the Command Slot are looked at (R144, R147). -/
theorem refusal_none_notHalted (p : Port) (args : List Byte) (s : State) (hg : s.gate ≠ .halted) :
    refusal p none args s = some .unknownOrder := if_neg hg

/-- Settles O39: an unknown order is refused by test 2 or test 3, as the gate state says (`unknownOrder_refused`), where neither field
access NONE nor a repeat has come first; UNKNOWN_ORDER is a storable status and HALTED is not. -/
theorem unknownOrderIsAnswered : Obligations.UnknownOrderIsAnswered := by
  intro w p h payload s hheard hcode
  refine ⟨fun hserving hopen hnew => ?_, fun a hopen hstored => ?_, fun hhalted hopen hnew => ?_, ?_⟩
  · have htest := refusal_none_notHalted p (payload.drop 1) (arrived w p s) (by simp [hserving])
    exact unknownOrder_refused w p h payload s .unknownOrder hheard hcode hopen hnew htest (by decide)
  · exact unknownOrder_repeated w p h payload s a hheard hopen hstored
  · have htest := refusal_none_halted p (payload.drop 1) (arrived w p s) (by simp [hhalted])
    exact unknownOrder_refused w p h payload s .halted hheard hcode hopen hnew htest (by decide)
  · rintro rfl hclosed
    exact unknownOrder_closed w h payload s hheard hclosed

end Sys2Proof.Proofs
end

section
/-! What one command can do, said once (`exec_outcome`): the gate starts again, or the next state is reached by changes of few kinds
(`Change`), each written out as an update of the state under the condition that the model makes it. Every claim about all commands
is then a claim about these changes. -/

namespace Sys2Proof.Proofs

open Sys2Proof.Machine Sys2Proof.Laws Sys2Proof.Safety

/-! ## The changes of a port -/

/-- The command `c`, taken in state `s₀`, brings the telegram `u` to a forward decision at port `p` (R9, R10, R65). -/
def Brings (p : Port) (u : Telegram) (c : Instr) (s₀ : State) : Prop :=
  ∃ w rest, c = .frameEnd w p rest ∧ (Framed p rest s₀ u ∨ FramedAtLoss w p rest s₀ u) ∧ u.reach ≠ 0

/-- The command `c`, taken in state `s₀`, carries out an order of code `k`: it delivers one, or it is a row of unknown orders whose
payload spells one, which no line brings (R142). -/
def Runs (k : OrderCode) (c : Instr) (s₀ : State) : Prop :=
  Delivers k c s₀ ∨ ∃ w p h args, c = .unknownOrder w p h (k.byte :: args)

/-- The direction whose Forward Queue stands at a port (R14). -/
def outward : Port → Direction
  | .c => .upward
  | .f => .downward

/-- What a command can make of port `p`. `owed` is the port, if any, whose transmitter still has to take before the command ends
(R17): only there does a transmitter become free or a telegram join the Forward Queue. -/
inductive PortChange (c : Instr) (s₀ : State) (owed : Option Port) (s : State) (p : Port) : PortState → Prop
  /-- Line, queues and transmission stay; an assembly comes only on a line that is UP. -/
  | quiet (q' : PortState) (hline : q'.line = (s.port p).line) (hfwd : q'.forwardQ = (s.port p).forwardQ)
      (hloc : q'.localQ = (s.port p).localQ) (hsend : q'.sending = (s.port p).sending)
      (hasm : q'.assembly = none ∨ q'.assembly = (s.port p).assembly ∨ (s.port p).line = .up) : PortChange c s₀ owed s p q'
  | take (now bt : Nat) : PortChange c s₀ owed s p ((s.port p).take now bt)
  | offer (now bt : Nat) (k : PortCounter) (t : Telegram) : PortChange c s₀ owed s p ((s.port p).offer now bt k t)
  | placeHead (now bt : Nat) (t : Telegram) (hup : (s.port p).line = .up) :
      PortChange c s₀ owed s p ((s.port p).placeHead now bt t)
  | free (howed : owed = some p) : PortChange c s₀ owed s p { s.port p with sending := none }
  | join (u : Telegram) (marked : Bool) (g : Option Group) (howed : owed = some p) (hbrings : Brings p.other u c s₀)
      (hserving : s.gate = .serving) (hopen : s.hold (outward p) = false) (hup : (s.port p).line = .up)
      (hroom : (s.port p).forwardQ.length < Config.forwardCapacity) :
      PortChange c s₀ owed s p
        { s.port p with forwardQ := (s.port p).forwardQ ++ [{ telegram := u.forwarded marked, group := g }] }
  | lose (now : Nat) : PortChange c s₀ owed s p ((s.port p).lose now)
  | lineUp : PortChange c s₀ owed s p { s.port p with line := .up, timing := none }

/-! ## The changes of the tracker and of a profile -/

/-- An entry after a retry of the exchange with key `k`: that one has used one retry more, under a new deadline (R53). -/
def retriedEntry (k : Key) (deadline : PetEntry → Moment) (y : PetEntry) : PetEntry :=
  if y.key = k then { y with used := y.used + 1, deadline := deadline y } else y

@[simp] theorem retriedEntry_key (k : Key) (deadline : PetEntry → Moment) (y : PetEntry) :
    (retriedEntry k deadline y).key = y.key := by
  unfold retriedEntry
  split <;> rfl

@[simp] theorem retriedEntry_slot (k : Key) (deadline : PetEntry → Moment) (y : PetEntry) :
    (retriedEntry k deadline y).slot = y.slot := by
  unfold retriedEntry
  split <;> rfl

/-- What a command can make of the PET and the Lapsed Ring (R49, R50 to R58, R62). -/
inductive TrackerChange (s : State) : List PetEntry → List Key → Prop
  | opened (x : PetEntry) (hserving : s.gate = .serving) (hnew : ∀ y ∈ s.pet, y.key ≠ x.key)
      (hroom : s.pet.length < Config.petCapacity) (hslot : x.slot = freeSlot s.pet) (hused : x.used = 0) :
      TrackerChange s (s.pet ++ [x]) (dropKey x.key s.ring)
  | retried (x : PetEntry) (deadline : PetEntry → Moment) (hx : x ∈ s.pet) (hused : x.used < x.allowance) :
      TrackerChange s (s.pet.map (retriedEntry x.key deadline)) s.ring
  | closed (k : Key) : TrackerChange s (removeEntry k s.pet) s.ring
  | lapsed (x : PetEntry) (hx : x ∈ s.pet) : TrackerChange s (removeEntry x.key s.pet) (pushKey x.key s.ring)
  | late (k : Key) : TrackerChange s s.pet (dropKey k s.ring)
  | flushed : TrackerChange s [] []

/-- A profile's credits are within its capacity, and its period runs exactly when it is defined (R73, R74). -/
def RateOk (x : Profile) : Prop := x.credits ≤ x.capacity ∧ (x.capacity = 0 ↔ x.nextExpiry = none)

/-- A profile goes on under its capacity: charged, refilled or restarted (R74, R76, R81). -/
def RateStep (x y : Profile) : Prop := y.capacity = x.capacity ∧ (RateOk x → RateOk y)

/-- An in-use entry of the Active bank names a profile (R79). -/
def NamedActive (s : State) (n : Fin 16) : Prop :=
  ∃ i : RuleIndex, (s.bank s.activeBank)[i].item.inUse = true ∧ (s.bank s.activeBank)[i].item.profile = some n

/-! ## The changes of the state -/

/-- One change that a command makes, under the condition that the model makes it. -/
inductive Change (c : Instr) (s₀ : State) (owed : Option Port) : State → State → Prop
  | outside (s : State) (w : Since) : Change c s₀ owed s (lapse w s)
  | port (s : State) (p : Port) (q' : PortState) (h : PortChange c s₀ owed s p q') : Change c s₀ owed s (s.setPort p q')
  | tracker (s : State) (pet : List PetEntry) (ring : List Key) (sound : Vector Bool 64) (n : Half)
      (h : TrackerChange s pet ring) :
      Change c s₀ owed s { s with pet := pet, ring := ring, petSound := sound, openCounter := n }
  | rates (s : State) (v : Vector Profile 16) (h : ∀ n : Fin 16, RateStep s.profiles[n] v[n]) :
      Change c s₀ owed s { s with profiles := v }
  | profile (s : State) (n : Fin 16) (x : Profile) (hrate : RateOk x) (hslot : s.slot.state ≠ .validating)
      (hnamed : x.capacity = 0 → ¬NamedActive s n) : Change c s₀ owed s { s with profiles := s.profiles.set n x }
  | staging (s : State) (b : RuleBank) (hslot : s.slot.state ≠ .validating) :
      Change c s₀ owed s (s.setBank s.stagingBank b)
  | commit (s : State) (ctx : CommitContext) (hserving : s.gate = .serving)
      (hfailure : ctx.failure = bankFailure s.profiles (s.bank s.stagingBank))
      (hinUse : ctx.inUse = inUseCount (s.bank s.stagingBank)) :
      Change c s₀ owed s { s with slot := .validating ctx }
  | leaveSlot (s : State) (v : Slot) (out : Option OutcomeRecord) (hv : v.state ≠ .validating) :
      Change c s₀ owed s { s with slot := v, outcome := out }
  | complete (s : State) (ctx : CommitContext) (out : Option OutcomeRecord) (hc : ∃ w, c = .validationComplete w)
      (hslot : s.slot = .validating ctx) (hpassed : ctx.failure = none) :
      Change c s₀ owed s { swapBanks s with slot := .idle, outcome := out }
  | hold (s : State) (down up : Bool) : Change c s₀ owed s (heldIn down up s)
  | release (s : State) (down up : Bool) (hserving : s.gate = .serving) :
      Change c s₀ owed s { s with holdDown := if down then false else s.holdDown, holdUp := if up then false else s.holdUp }
  | halt (s : State) (fault : GateFault) (v : Slot) (out : Option OutcomeRecord)
      (hgate : s.gate = .serving ∨ s.inReset = false) (hv : v.state ≠ .validating) :
      Change c s₀ owed s { haltedAt fault s with slot := v, outcome := out }
  | serve (s : State) (hreset : s.inReset = false) : Change c s₀ owed s { s with gate := .serving }
  | settings (s : State) (x : Settings) (args : List Byte) (n : Nat) (h : configWriteArgs args s.settings = .ok (x, n)) :
      Change c s₀ owed s { s with settings := x }
  | captured (s : State) (x : CaptureRecord) (hkept : x.kept.length ≤ Config.keptPayload) :
      Change c s₀ owed s (requestCapture x s)
  | uncaptured (s : State) (xs : List CaptureRecord) (n : Half) (h : xs.Sublist s.captures) :
      Change c s₀ owed s { s with captures := xs, overflow := n }
  | snapshots (s : State) (v : Vector (Option Snapshot) 32)
      (h : (∀ (g : Group) (x : Snapshot), s.snapshots[g] = some x → v[g] = some x) ∨ Runs .snapshotRead c s₀) :
      Change c s₀ owed s { s with snapshots := v }
  /-- The clock, the words, the tallies and the capture sequence counter, of which no claim about all commands speaks. -/
  | rest (s : State) (now : Moment) (words : Vector Half 16) (tallies : Vector (Checked Counters) 32) (seq : Half) :
      Change c s₀ owed s { s with now := now, words := words, tallies := tallies, captureSeq := seq }

/-- A sequence of changes. -/
def Path (c : Instr) (s₀ : State) (owed : Option Port) : State → State → Prop :=
  Relation.ReflTransGen (Change c s₀ owed)

theorem Path.refl {c : Instr} {s₀ : State} {owed : Option Port} (s : State) : Path c s₀ owed s s := Relation.ReflTransGen.refl

theorem Path.trans {c : Instr} {s₀ : State} {owed : Option Port} {s t u : State} (h : Path c s₀ owed s t)
    (h' : Path c s₀ owed t u) : Path c s₀ owed s u := Relation.ReflTransGen.trans h h'

theorem Change.path {c : Instr} {s₀ : State} {owed : Option Port} {s t : State} (h : Change c s₀ owed s t) :
    Path c s₀ owed s t := .single h

/-- What every change keeps, a sequence of changes keeps. -/
theorem Path.keeps {c : Instr} {s₀ : State} {owed : Option Port} {s t : State} (I : State → Prop)
    (hI : ∀ u v, Change c s₀ owed u v → I u → I v) (h : Path c s₀ owed s t) (hs : I s) : I t := by
  induction h with
  | refl => exact hs
  | tail _ hchange ih => exact hI _ _ hchange ih

end Sys2Proof.Proofs
end

section
/-! The shared operations as sequences of changes: ports and counts, tallies, the end of a commit, the halt, flush and hold. -/

namespace Sys2Proof.Proofs

open Sys2Proof.Machine Sys2Proof.Laws Sys2Proof.Safety

section Operations

variable {c : Instr} {s₀ : State} {owed : Option Port}

/-! ## Ports -/

/-- A change of one port is a path. -/
theorem path_setPort (s : State) (p : Port) (q' : PortState) (h : PortChange c s₀ owed s p q') :
    Path c s₀ owed s (s.setPort p q') := (Change.port s p q' h).path

theorem path_onPort (s : State) (p : Port) (f : PortState → PortState) (h : PortChange c s₀ owed s p (f (s.port p))) :
    Path c s₀ owed s (s.onPort p f) := path_setPort s p _ h

theorem path_bump (p : Port) (k : PortCounter) (s : State) : Path c s₀ owed s (bump p k s) :=
  path_onPort s p _ (.quiet _ rfl rfl rfl rfl (.inr (.inl rfl)))

theorem path_dropAssembly (p : Port) (s : State) : Path c s₀ owed s (dropAssembly p s) :=
  path_onPort s p _ (.quiet _ rfl rfl rfl rfl (.inl rfl))

theorem path_dropLostFrame (p : Port) (s : State) : Path c s₀ owed s (dropLostFrame p s) :=
  path_onPort s p _ (.quiet _ rfl rfl rfl rfl (.inr (.inl rfl)))

theorem path_take (p : Port) (s : State) : Path c s₀ owed s (take p s) := path_onPort s p _ (.take _ _)

theorem path_offer (p : Port) (k : PortCounter) (t : Telegram) (s : State) : Path c s₀ owed s (offer p k t s) :=
  path_onPort s p _ (.offer _ _ _ _)

theorem path_lapse (w : Since) (s : State) : Path c s₀ owed s (lapse w s) := (Change.outside s w).path

theorem path_reach (s : State) (due : Moment) : Path c s₀ owed s (s.reach due) :=
  (Change.rest s _ s.words s.tallies s.captureSeq).path

/-! ## Tallies and captures -/

theorem path_tallies (s : State) (v : Vector (Checked Counters) 32) : Path c s₀ owed s { s with tallies := v } :=
  (Change.rest s s.now s.words v s.captureSeq).path

theorem path_tally (group : Option Group) (changes : List (Counter × Nat)) (e : Course) :
    Path c s₀ owed e.state (e.tally group changes).state := by
  rw [tally_fields]; exact path_tallies _ _

theorem path_tallyQueue (k : Counter) (xs : List Forwarded) (e : Course) :
    Path c s₀ owed e.state (e.tallyQueue k xs).state := by
  rw [tallyQueue_fields]; exact path_tallies _ _

theorem path_captureFor (p : Port) (t : Telegram) (tr : Treatment) (outcome : CaptureOutcome) (s : State) :
    Path c s₀ owed s (captureFor p t tr outcome s) := by
  unfold captureFor
  split
  · exact (Change.captured s _ (List.length_take_le _ _)).path
  · exact Path.refl s

/-! ## Answers and the end of a commit -/

theorem path_sendAnswer (p : Port) (requester : Byte) (tag : Tag) (a : Answer) (s : State) :
    Path c s₀ owed s (sendAnswer p requester tag a s) := path_offer _ _ _ _

theorem path_storeAnswer (p : Port) (requester : Byte) (tag : Tag) (a : Answer) (s : State) :
    Path c s₀ owed s (storeAnswer p requester tag a s) :=
  path_onPort s p _ (.quiet _ rfl rfl rfl rfl (.inr (.inl rfl)))

/-- What a commit's end makes of a state after it has left the slot: the completion answer offered and the record dealt with
(R99 to R101). -/
theorem path_endCommit (ctx : CommitContext) (result : CommitResult) (detail : Half) (shown : GateState) (s : State) :
    Path c s₀ owed
      { s with slot := .idle,
               outcome := some { requester := ctx.requester, port := ctx.port, tag := ctx.tag, result := result, detail := detail } }
      (endCommit ctx result detail shown s) := by
  unfold endCommit
  exact (path_sendAnswer ..).trans (path_onPort _ _ _ (.quiet _ rfl rfl rfl rfl (.inr (.inl rfl))))

theorem path_endCommit_whole (ctx : CommitContext) (result : CommitResult) (detail : Half) (shown : GateState) (s : State) :
    Path c s₀ owed s (endCommit ctx result detail shown s) :=
  (Change.leaveSlot s .idle _ (by decide)).path.trans (path_endCommit ctx result detail shown s)

/-- The answer to RESTART is placed on a line that is UP (R200). -/
theorem path_answerOrder (p : Port) (h : OrderHead) (code : Byte) (status : Status) (detail : Half) (data : List Byte) (s : State)
    (hup : code = OrderCode.restart.byte → status = .done → (s.port p).line = .up) :
    Path c s₀ owed s (answerOrder p h code status detail data s) := by
  unfold answerOrder
  dsimp only
  generalize buildAnswer s code status detail data = a
  have hstored : Path c s₀ owed s (if storable code status then storeAnswer p h.source h.tag a s else s) := by
    split
    · exact path_storeAnswer ..
    · exact Path.refl s
  split
  case isTrue hrestart =>
    refine hstored.trans (path_onPort _ _ _ (.placeHead _ _ _ ?_))
    split
    · simpa [storeAnswer] using hup hrestart.1 hrestart.2
    · exact hup hrestart.1 hrestart.2
  case isFalse => exact hstored.trans (path_sendAnswer ..)

/-! ## The halt -/

/-- Entering HALTED, from SERVING or at the end of STARTING (R196, R198). -/
theorem path_enterHalted (fault : GateFault) (s : State) (hgate : s.gate = .serving ∨ s.inReset = false) :
    Path c s₀ owed s (enterHalted fault s) := by
  have hemptied : clearForward .c (clearForward .f { s with
      gate := .halted, fault := some fault, holdDown := true, holdUp := true, pet := [], ring := [] }) = haltedAt fault s := by
    simp [clearForward, State.onPort, State.setPort, haltedAt]
  by_cases hslot : s.slot.state = .validating
  · cases hs : s.slot with
    | validating ctx =>
      rw [enterHalted_commit fault s ctx hs, hemptied]
      exact (Change.halt s fault .idle _ hgate (by decide)).path.trans (path_endCommit ..)
    | idle => simp [hs, Slot.state] at hslot
    | restarting r => simp [hs, Slot.state] at hslot
  · rw [enterHalted_noCommit fault s hslot, hemptied]
    exact (Change.halt s fault s.slot s.outcome hgate hslot).path

theorem path_haltOn (fault : GateFault) (s : State) : Path c s₀ owed s (haltOn fault s) := by
  unfold haltOn
  split
  case isTrue hserving => exact path_enterHalted fault s (.inl hserving)
  case isFalse => exact Path.refl s

theorem path_finish (e : Course) : Path c s₀ owed e.state e.finish := by
  unfold Course.finish
  split
  · exact Path.refl _
  · exact path_haltOn _ _

/-! ## Flush and hold -/

theorem path_flushEntry (notify : Option Port) (e : Course) (x : PetEntry) :
    Path c s₀ owed e.state (flushEntry notify e x).state := by
  unfold flushEntry
  split
  · exact Path.refl _
  split
  · dsimp only
    split
    · exact (path_tally ..).trans (path_offer ..)
    · exact path_tally ..
  · exact Path.refl _

theorem path_flush (notify : Option Port) (e : Course) : Path c s₀ owed e.state (flush notify e).state := by
  have hentries (xs : List PetEntry) (e : Course) : Path c s₀ owed e.state (xs.foldl (flushEntry notify) e).state := by
    induction xs generalizing e with
    | nil => exact Path.refl _
    | cons x xs ih => exact (path_flushEntry notify e x).trans (ih _)
  have hempty (s : State) : Path c s₀ owed s { s with pet := [], ring := [] } :=
    (Change.tracker s [] [] s.petSound s.openCounter .flushed).path
  exact (hentries e.state.pet e).trans (hempty _)

theorem path_holdNamed (down up : Bool) (e : Course) : Path c s₀ owed e.state (holdNamed down up e).state := by
  rw [holdNamed_eq]
  exact (Change.hold e.state down up).path.trans (path_tallyQueue _ _ (e.map (heldIn down up)))

end Operations

end Sys2Proof.Proofs
end

section
/-! The Order Engine as sequences of changes: the execution of each order, under what the tests before it have let pass, and the
engine around it (chapter 8). -/

namespace Sys2Proof.Proofs

open Sys2Proof.Machine Sys2Proof.Laws Sys2Proof.Safety

/-- The state that an order's execution has made, whether it is answered or ends at a halt (R150, R156). -/
def servedState : Served → State
  | .answered _ _ _ s => s
  | .halts _ s => s

/-- What the gate state and the Command Slot are like when an order of code `k` is executed (R146, R149). -/
structure MayRun (k : OrderCode) (args : List Byte) (s : State) : Prop where
  serving : s.gate = .serving ∨ k = .status ∨ k = .restart
  slot : slotServes s.slot.state k (k.cls args) = true

/-- Tests 2 to 5 let an order of a gate that is not STARTING pass only where it may run (R144). -/
theorem mayRun_of_refusal (p : Port) (k : OrderCode) (args : List Byte) (s : State) (hg : s.gate ≠ .starting)
    (h : refusal p (some k) args s = none) : MayRun k args s := by
  unfold refusal at h
  dsimp only at h
  split at h
  · cases h
  split at h
  · cases h
  split at h
  · cases h
  rename_i hhalted _ hslot
  refine ⟨?_, by simpa using hslot⟩
  cases hgate : s.gate with
  | starting => exact absurd hgate hg
  | serving => exact .inl rfl
  | halted => tauto

/-- An order of class CHANGE runs while no commit is in flight (R149). -/
theorem MayRun.slot_of_change {k : OrderCode} {args : List Byte} {s : State} (h : MayRun k args s)
    (hk : k.cls args = .change) : s.slot.state ≠ .validating := by
  intro hv
  have hserves := h.slot
  rw [hv, hk] at hserves
  cases hserves

section Orders

variable {c : Instr} {s₀ : State} {owed : Option Port}

/-! ## Rules -/

theorem path_runStageWrite (args : List Byte) (s : State) (hslot : s.slot.state ≠ .validating) :
    Path c s₀ owed s (servedState (runStageWrite args s)) := by
  unfold runStageWrite
  split
  · exact Path.refl s
  · exact (Change.staging s _ hslot).path

theorem path_runStageClear (args : List Byte) (s : State) (hslot : s.slot.state ≠ .validating) :
    Path c s₀ owed s (servedState (runStageClear args s)) := by
  unfold runStageClear
  split
  · exact Path.refl s
  · exact (Change.staging s _ hslot).path

theorem path_runStageClone (args : List Byte) (s : State) (hslot : s.slot.state ≠ .validating) :
    Path c s₀ owed s (servedState (runStageClone args s)) := by
  unfold runStageClone
  split
  · exact Path.refl s
  · dsimp only
    split
    · exact (Change.staging s _ hslot).path
    · exact (Change.staging s _ hslot).path

theorem path_runRulesRead (args : List Byte) (s : State) : Path c s₀ owed s (servedState (runRulesRead args s)) := by
  unfold runRulesRead
  split
  · exact Path.refl s
  · dsimp only
    split
    · exact Path.refl s
    · exact Path.refl s

theorem path_runCommit (p : Port) (h : OrderHead) (args : List Byte) (s : State) (hserving : s.gate = .serving) :
    Path c s₀ owed s (servedState (runCommit p h args s)) := by
  unfold runCommit
  split
  · exact Path.refl s
  · dsimp only
    split
    · exact (Change.commit s _ hserving rfl rfl).path
    · exact (Change.commit s _ hserving rfl rfl).path

theorem path_runAbandon (args : List Byte) (s : State) : Path c s₀ owed s (servedState (runAbandon args s)) := by
  unfold runAbandon
  split
  · exact Path.refl s
  · split
    · exact path_endCommit_whole ..
    · exact Path.refl s

theorem servedState_serve (e : Course) (status : Status) (detail : Nat) (data : List Byte) :
    servedState (e.serve status detail data) = e.state := by
  unfold Course.serve
  split <;> rfl

theorem path_runHold (args : List Byte) (s : State) : Path c s₀ owed s (servedState (runHold args s)) := by
  unfold runHold
  split
  · exact Path.refl s
  · rw [servedState_serve]
    exact path_holdNamed _ _ (Course.of s)

theorem path_runRelease (args : List Byte) (s : State) (hserving : s.gate = .serving) :
    Path c s₀ owed s (servedState (runRelease args s)) := by
  unfold runRelease
  split
  · exact Path.refl s
  · exact (Change.release s _ _ hserving).path

/-! ## Profiles -/

/-- A profile as a PROFILE_WRITE leaves it is full, and its period runs exactly when it is defined (R80). -/
theorem rateOk_written (now : Moment) (x : ProfileArgs) : RateOk (Profile.written now x) := by
  refine ⟨BitVec.le_refl _, ?_⟩
  simp only [Profile.written]
  split
  case isTrue hzero => exact iff_of_true hzero rfl
  case isFalse hdefined => exact iff_of_false hdefined (by simp)

/-- A search that finds nothing has passed every entry of its list (R79). -/
theorem searchProfile_absent (bank : RuleBank) (n : Fin 16) (is : List RuleIndex) (h : searchProfile bank n is = .absent) :
    ∀ i ∈ is, bank[i].sound = true ∧ ¬(bank[i].item.inUse = true ∧ bank[i].item.profile = some n) := by
  induction is with
  | nil => simp
  | cons i is ih =>
    rw [searchProfile] at h
    split at h
    case isFalse => cases h
    case isTrue hsound =>
      split at h
      case isTrue => cases h
      case isFalse hnames => exact List.forall_mem_cons.2 ⟨⟨hsound, by simpa using hnames⟩, ih h⟩

theorem path_runProfileWrite (args : List Byte) (s : State) (hslot : s.slot.state ≠ .validating) :
    Path c s₀ owed s (servedState (runProfileWrite args s)) := by
  unfold runProfileWrite
  split
  · exact Path.refl s
  · rename_i x _
    dsimp only
    split
    case isFalse hdefined =>
      exact (Change.profile s x.number _ (rateOk_written s.now x) hslot fun h => absurd h hdefined).path
    case isTrue =>
      split
      · exact Path.refl s
      · exact Path.refl s
      · rename_i habsent
        refine (Change.profile s x.number _ (rateOk_written s.now x) hslot fun _ => ?_).path
        rintro ⟨i, hnames⟩
        exact (searchProfile_absent _ _ _ habsent i (List.mem_finRange i)).2 hnames

/-! ## Tallies and snapshots -/

/-- One group of a SNAPSHOT fills an EMPTY slot, or none (R120). -/
theorem path_captureGroup (clear : Bool) (number : Half) (e : Capturing) (g : Group) :
    Path c s₀ owed e.state (captureGroup clear number e g).state := by
  unfold captureGroup
  split
  · exact Path.refl _
  split
  · exact Path.refl _
  · rename_i hempty
    split
    case isFalse => exact Path.refl _
    case isTrue =>
      have hkept : ∀ (j : Group) (x : Snapshot), e.state.snapshots[j] = some x →
          (e.state.snapshots.set g (some (capturedSlot e.state.tallies[g].item e.state.generation number)))[j] = some x := by
        intro j x hj
        have hne : g.val ≠ j.val := fun h => by rw [Fin.ext h, hj] at hempty; cases hempty
        simpa [Vector.getElem_set, hne] using hj
      exact (Change.snapshots e.state _ (.inl hkept)).path.trans (path_tallies _ _)

theorem path_takeSnapshot (set : GroupSet) (clear : Bool) (s : State) :
    Path c s₀ owed s (takeSnapshot set clear s).state := by
  have hgroups (number : Half) (gs : List Group) (e : Capturing) :
      Path c s₀ owed e.state (gs.foldl (captureGroup clear number) e).state := by
    induction gs generalizing e with
    | nil => exact Path.refl _
    | cons g gs ih => exact (path_captureGroup clear number e g).trans (ih _)
  have hnumbered (u : State) (n : Half) : Path c s₀ owed u { u with captureSeq := n } :=
    (Change.rest u u.now u.words u.tallies n).path
  unfold takeSnapshot
  dsimp only
  split
  · exact hgroups _ _ { state := s, captured := [], found := none }
  · exact (hgroups _ _ { state := s, captured := [], found := none }).trans (hnumbered _ _)

theorem path_runSnapshot (args : List Byte) (s : State) : Path c s₀ owed s (servedState (runSnapshot args s)) := by
  unfold runSnapshot
  split
  · exact Path.refl s
  · dsimp only
    split
    · exact path_takeSnapshot ..
    · exact path_takeSnapshot ..

theorem path_runSnapshotRead (args : List Byte) (s : State) (hruns : Runs .snapshotRead c s₀) :
    Path c s₀ owed s (servedState (runSnapshotRead args s)) := by
  unfold runSnapshotRead
  split
  · exact Path.refl s
  · dsimp only
    split
    · exact (Change.snapshots s _ (.inr hruns)).path
    · exact (Change.snapshots s _ (.inr hruns)).path

theorem path_runTallyClear (args : List Byte) (s : State) : Path c s₀ owed s (servedState (runTallyClear args s)) := by
  unfold runTallyClear
  split
  · exact Path.refl s
  · exact path_tallies s _

theorem path_clearCounters (p : Port) (s : State) : Path c s₀ owed s (clearCounters p s) :=
  path_onPort s p _ (.quiet _ rfl rfl rfl rfl (.inr (.inl rfl)))

theorem path_runPortCounters (args : List Byte) (s : State) : Path c s₀ owed s (servedState (runPortCounters args s)) := by
  unfold runPortCounters
  split
  · exact Path.refl s
  · rename_i atC atF clear _
    have hc : Path c s₀ owed s (if clear && atC then clearCounters .c s else s) := by
      split
      · exact path_clearCounters .c s
      · exact Path.refl s
    dsimp only [servedState, doneWith]
    split
    · exact hc.trans (path_clearCounters .f _)
    · exact hc

/-! ## The other stores -/

theorem path_runExchangeList (args : List Byte) (s : State) : Path c s₀ owed s (servedState (runExchangeList args s)) := by
  unfold runExchangeList
  split
  · exact Path.refl s
  · dsimp only
    split
    · exact Path.refl s
    · exact Path.refl s

theorem path_runExchangeFlush (args : List Byte) (s : State) : Path c s₀ owed s (servedState (runExchangeFlush args s)) := by
  unfold runExchangeFlush
  split
  · exact Path.refl s
  · rw [servedState_serve]
    exact path_flush none (Course.of s)

theorem path_runProfileRead (args : List Byte) (s : State) : Path c s₀ owed s (servedState (runProfileRead args s)) := by
  unfold runProfileRead
  split
  · exact Path.refl s
  · exact Path.refl s

theorem path_runCaptureRead (args : List Byte) (s : State) : Path c s₀ owed s (servedState (runCaptureRead args s)) := by
  unfold runCaptureRead
  split
  · exact Path.refl s
  · exact (Change.uncaptured s _ 0 (List.drop_sublist 1 _)).path

theorem path_runCaptureClear (args : List Byte) (s : State) : Path c s₀ owed s (servedState (runCaptureClear args s)) := by
  unfold runCaptureClear
  split
  · exact Path.refl s
  · exact (Change.uncaptured s [] 0 (List.nil_sublist _)).path

theorem path_runStatus (args : List Byte) (s : State) : Path c s₀ owed s (servedState (runStatus args s)) := by
  unfold runStatus
  split
  · exact Path.refl s
  · exact Path.refl s

theorem path_runConfigRead (args : List Byte) (s : State) : Path c s₀ owed s (servedState (runConfigRead args s)) := by
  unfold runConfigRead
  split
  · exact Path.refl s
  · exact Path.refl s

theorem path_runConfigWrite (args : List Byte) (s : State) : Path c s₀ owed s (servedState (runConfigWrite args s)) := by
  unfold runConfigWrite
  split
  · exact Path.refl s
  · rename_i hargs
    exact (Change.settings s _ args _ hargs).path

/-! ## The Shared Word File and RESTART -/

theorem path_runWordRead (p : Port) (args : List Byte) (s : State) : Path c s₀ owed s (servedState (runWordRead p args s)) := by
  unfold runWordRead
  split
  · exact Path.refl s
  · dsimp only [servedState, doneWith]
    split
    · exact path_onPort s p _ (.quiet _ rfl rfl rfl rfl (.inr (.inl rfl)))
    · exact Path.refl s

theorem path_wordNotice (p : Port) (s : State) : Path c s₀ owed s (wordNotice p s) := by
  unfold wordNotice
  dsimp only
  split
  · exact Path.refl s
  split
  · exact Path.refl s
  split
  · exact Path.refl s
  split
  · exact path_bump ..
  · exact (path_offer ..).trans (path_onPort _ _ _ (.quiet _ rfl rfl rfl rfl (.inr (.inl rfl))))

theorem path_runWordWrite (p : Port) (args : List Byte) (s : State) : Path c s₀ owed s (servedState (runWordWrite p args s)) := by
  unfold runWordWrite
  split
  · exact Path.refl s
  split
  · have hwritten (words : Vector Half 16) : Path c s₀ owed s { s with words := words } :=
      (Change.rest s s.now words s.tallies s.captureSeq).path
    dsimp only [servedState, doneWith]
    split
    · exact (hwritten _).trans (path_wordNotice p _)
    · exact hwritten _
  · exact Path.refl s

theorem path_runRestart (p : Port) (args : List Byte) (s : State) : Path c s₀ owed s (servedState (runRestart p args s)) := by
  unfold runRestart
  split
  · exact Path.refl s
  · exact (Change.leaveSlot s _ s.outcome (by simp [Slot.state])).path

/-! ## Every order, and the engine around it -/

/-- The execution of every order (R150). -/
theorem path_runOrder (k : OrderCode) (p : Port) (h : OrderHead) (args : List Byte) (s : State) (hrun : MayRun k args s)
    (hk : k = .snapshotRead → Runs .snapshotRead c s₀) : Path c s₀ owed s (servedState (runOrder k p h args s)) := by
  have hserving (hne : k ≠ .status ∧ k ≠ .restart) : s.gate = .serving :=
    hrun.serving.resolve_right (not_or.2 hne)
  cases k with
  | status => exact path_runStatus args s
  | configRead => exact path_runConfigRead args s
  | configWrite => exact path_runConfigWrite args s
  | rulesRead => exact path_runRulesRead args s
  | stageWrite => exact path_runStageWrite args s (hrun.slot_of_change rfl)
  | stageClear => exact path_runStageClear args s (hrun.slot_of_change rfl)
  | stageClone => exact path_runStageClone args s (hrun.slot_of_change rfl)
  | commit => exact path_runCommit p h args s (hserving (by decide))
  | abandon => exact path_runAbandon args s
  | hold => exact path_runHold args s
  | release => exact path_runRelease args s (hserving (by decide))
  | profileRead => exact path_runProfileRead args s
  | profileWrite => exact path_runProfileWrite args s (hrun.slot_of_change rfl)
  | exchangeList => exact path_runExchangeList args s
  | exchangeFlush => exact path_runExchangeFlush args s
  | snapshot => exact path_runSnapshot args s
  | snapshotRead => exact path_runSnapshotRead args s (hk rfl)
  | tallyClear => exact path_runTallyClear args s
  | portCounters => exact path_runPortCounters args s
  | captureRead => exact path_runCaptureRead args s
  | captureClear => exact path_runCaptureClear args s
  | wordRead => exact path_runWordRead p args s
  | wordWrite => exact path_runWordWrite p args s
  | restart => exact path_runRestart p args s

/-- An order leaves the line of its arrival port as it was when it is a RESTART (R200). -/
theorem runRestart_line (p : Port) (args : List Byte) (s : State) :
    ((servedState (runRestart p args s)).port p).line = (s.port p).line := by
  unfold runRestart
  split
  · rfl
  · cases p <;> rfl

theorem restart_of_byte : ∀ k : OrderCode, k.byte = OrderCode.restart.byte → k = .restart := by
  intro k; cases k <;> decide

/-- The end of an order's execution, whose arrival port's line is UP (R150, R156). -/
theorem path_concludeOrder (k : OrderCode) (p : Port) (h : OrderHead) (args : List Byte) (s : State)
    (hup : (s.port p).line = .up) :
    Path c s₀ owed (servedState (runOrder k p h args s)) (concludeOrder p h k.byte (runOrder k p h args s)) := by
  have hline : k = .restart → ((servedState (runOrder k p h args s)).port p).line = .up := by
    rintro rfl
    exact (runRestart_line p args s).trans hup
  generalize runOrder k p h args s = r at hline ⊢
  cases r with
  | answered status detail data v => exact path_answerOrder _ _ _ _ _ _ _ fun hk _ => hline (restart_of_byte k hk)
  | halts fault v => exact path_haltOn fault v

/-- An order code's place in the table gives the byte back (R205). -/
theorem byte_of_orderFor {x : Byte} {k : OrderCode} (h : orderFor x = some k) : k.byte = x := by
  simpa using List.find?_some h

/-- The Order Engine on an order delivered to it, at a gate that is not STARTING and a port whose line is UP (R143 to R150). -/
theorem path_takeOrder (p : Port) (h : OrderHead) (payload : List Byte) (s : State) (hg : s.gate ≠ .starting)
    (hup : (s.port p).line = .up)
    (hk : ∀ args, payload = OrderCode.snapshotRead.byte :: args → Runs .snapshotRead c s₀) :
    Path c s₀ owed s (takeOrder p h payload s) := by
  have htaken : Path c s₀ owed s (bump p .ordersTaken s) := path_bump ..
  have hup' : ((bump p .ordersTaken s).port p).line = .up := by simpa [bump] using hup
  have hg' : (bump p .ordersTaken s).gate ≠ .starting := hg
  unfold takeOrder
  split
  · exact path_bump ..
  dsimp only
  split
  · exact htaken.trans ((path_bump ..).trans (path_sendAnswer ..))
  split
  · rename_i k htests hcode
    have hbyte := byte_of_orderFor hcode
    rw [hcode] at htests
    refine htaken.trans ((path_runOrder k p h _ _ (mayRun_of_refusal p k _ _ hg' htests) ?_).trans ?_)
    · rintro rfl
      cases payload with
      | nil => exact absurd hbyte (by decide)
      | cons x args => exact hk args (by rw [hbyte]; rfl)
    · rw [← hbyte]
      exact path_concludeOrder k p h _ _ hup'
  · exact htaken.trans (path_answerOrder _ _ _ _ _ _ _ fun _ _ => hup')
  · exact htaken

end Orders

end Sys2Proof.Proofs
end

section
/-! The forward decision and intake as sequences of changes (chapters 1 to 4), the events that no telegram brings, and every command
with them: `exec_outcome`. -/

namespace Sys2Proof.Proofs

open Sys2Proof.Machine Sys2Proof.Laws Sys2Proof.Safety

/-! ## Steps of the forward decision -/

/-- A charge or a refill goes on under the profile's capacity (R74, R76). -/
theorem rateStep_of_credits {x y : Profile} (hcap : y.capacity = x.capacity) (hnext : y.nextExpiry = none ↔ x.nextExpiry = none)
    (hcredits : x.credits ≤ x.capacity → y.credits ≤ x.capacity) : RateStep x y :=
  ⟨hcap, fun ⟨hle, hperiod⟩ => ⟨hcap ▸ hcredits hle, by rw [hcap, hnext]; exact hperiod⟩⟩

theorem rateStep_self (x : Profile) : RateStep x x := ⟨rfl, id⟩

/-- One profile changed is a step of all. -/
theorem rateStep_modifyAt (v : Vector Profile 16) (n : Fin 16) (f : Profile → Profile) (h : RateStep v[n] (f v[n])) (m : Fin 16) :
    RateStep v[m] (modifyAt v n f)[m] := by
  rw [modifyAt_get]
  split
  case isTrue heq => exact heq ▸ h
  case isFalse => exact rateStep_self _

/-- What step 5 leaves for step 7 to charge is within the credits (R37, R76). -/
def Affordable (due : Option (Fin 16 × Nat)) (s : State) : Prop :=
  ∀ n cost, due = some (n, cost) → cost ≤ s.profiles[n].credits.toNat

theorem affordable_none (s : State) : Affordable none s := fun _ _ h => nomatch h

/-- What the tracker agrees to carry out is an opening where there is room or a retry within the allowance (R50, R51, R53). -/
def Agreed (act : Option TrackAction) (s : State) : Prop :=
  match act with
  | some (.openNew key _ _) => (∀ y ∈ s.pet, y.key ≠ key) ∧ s.pet.length < Config.petCapacity
  | some (.retry x) => x ∈ s.pet ∧ x.used < x.allowance
  | _ => True

theorem pollAnswer_agreed (p : Port) (t : Telegram) (rule : RuleIndex) (terms : TrackTerms) (s : State) (x : TrackAction)
    (h : pollAnswer p t rule terms s = .act x) : Agreed (some x) s := by
  unfold pollAnswer at h
  split at h
  · rename_i y hfound
    split at h
    · cases h
      rename_i hretry
      exact ⟨List.mem_of_find?_eq_some hfound, hretry.2⟩
    · cases h
  · rename_i hnone
    split at h
    · cases h
    split at h
    · cases h
    · cases h
      rename_i hroom _
      exact ⟨fun y hy => by simpa using List.find?_eq_none.1 hnone y hy, by omega⟩

theorem replyAnswer_agreed (p : Port) (t : Telegram) (s : State) (x : TrackAction) (h : replyAnswer p t s = .act x) :
    Agreed (some x) s := by
  unfold replyAnswer at h
  split at h
  · cases h; trivial
  · split at h <;> cases h

theorem stepSix_agreed (p : Port) (t : Telegram) (tr : Treatment) (due due' : Option (Fin 16 × Nat)) (marked marked' : Bool)
    (act : Option TrackAction) (s : State) (h : stepSix p t tr due marked s = .enqueue due' marked' act) :
    due' = due ∧ Agreed act s := by
  unfold stepSix at h
  split at h
  · cases h; exact ⟨rfl, trivial⟩
  · split at h
    · rename_i x hans
      cases h
      refine ⟨rfl, ?_⟩
      unfold trackAnswer at hans
      split at hans
      · cases hans
      · split at hans
        · exact pollAnswer_agreed _ _ _ _ _ _ hans
        · exact replyAnswer_agreed _ _ _ _ hans
    · cases h
    · cases h

/-- What steps 2 to 6 have let pass when they pass a telegram to step 7 (R34 to R38). -/
theorem forwardSteps_enqueue (p : Port) (t : Telegram) (tr : Treatment) (due : Option (Fin 16 × Nat)) (marked : Bool)
    (act : Option TrackAction) (s : State) (h : forwardSteps p t tr s = .enqueue due marked act) :
    s.hold p.direction = false ∧ (s.port p.other).line = .up ∧ (s.port p.other).forwardQ.length < Config.forwardCapacity ∧
      Affordable due s ∧ Agreed act s := by
  unfold forwardSteps at h
  split at h
  · cases h
  split at h
  · cases h
  split at h
  · cases h
  split at h
  · cases h
  rename_i hhold hline hfull
  have hup : (s.port p.other).line = .up := by
    cases hl : (s.port p.other).line with
    | up => rfl
    | down => exact absurd hl hline
  have hcost : Affordable due s ∧ Agreed act s := by
    unfold stepFive at h
    split at h
    · obtain ⟨rfl, ha⟩ := stepSix_agreed _ _ _ _ _ _ _ _ _ h
      exact ⟨affordable_none s, ha⟩
    · dsimp only at h
      split at h
      case isTrue hwithin =>
        obtain ⟨rfl, ha⟩ := stepSix_agreed _ _ _ _ _ _ _ _ _ h
        refine ⟨fun m cost hd => ?_, ha⟩
        cases hd
        exact hwithin
      case isFalse =>
        split at h
        · cases h
        · obtain ⟨rfl, ha⟩ := stepSix_agreed _ _ _ _ _ _ _ _ _ h
          exact ⟨affordable_none s, ha⟩
  exact ⟨by simpa using hhold, hup, by omega, hcost⟩

/-- A path, or a path to where the taking of one port is still left (R17). -/
def Arrives (c : Instr) (s₀ s t : State) : Prop :=
  Path c s₀ none s t ∨ ∃ p m, Path c s₀ (some p) s m ∧ t = take p m

/-- What leads to an arrival from a state that every path leads to. -/
theorem Arrives.after {c : Instr} {s₀ s u t : State} (h' : Arrives c s₀ u t) (h : ∀ owed, Path c s₀ owed s u) :
    Arrives c s₀ s t :=
  h'.imp (fun hpath => (h none).trans hpath) fun ⟨p, m, hpath, ht⟩ => ⟨p, m, (h (some p)).trans hpath, ht⟩

section Decisions

variable {c : Instr} {s₀ : State} {owed : Option Port}

theorem path_charge (due : Option (Fin 16 × Nat)) (s : State) (h : Affordable due s) : Path c s₀ owed s (charge due s) := by
  unfold charge
  split
  · exact Path.refl s
  · rename_i n cost
    refine (Change.rates s _ (rateStep_modifyAt _ n _ (rateStep_of_credits rfl Iff.rfl fun hle => ?_))).path
    have hcost := h n cost rfl
    have hlt := s.profiles[n].credits.isLt
    rw [BitVec.le_def] at hle ⊢
    simp only [BitVec.toNat_sub, BitVec.toNat_ofNat]
    omega

/-- A charge changes the profiles alone (R76). -/
theorem charge_fields (due : Option (Fin 16 × Nat)) (s : State) : charge due s = { s with profiles := (charge due s).profiles } := by
  unfold charge
  split <;> rfl

/-- An opening, retry or close changes the tracker and the tallies alone (R52, R53, R57, R69). -/
theorem carryOut_fields (p : Port) (group : Option Group) (act : Option TrackAction) (e : Course) :
    (carryOut p group act e).state =
      { e.state with
        pet := (carryOut p group act e).state.pet, petSound := (carryOut p group act e).state.petSound,
        ring := (carryOut p group act e).state.ring, openCounter := (carryOut p group act e).state.openCounter,
        tallies := (carryOut p group act e).state.tallies } := by
  unfold carryOut
  split
  · rfl
  all_goals rw [Course.tally1, tally_fields]; rfl

theorem path_tally1_map (f : State → State) (group : Option Group) (k : Counter) (e : Course)
    (h : Path c s₀ owed e.state (f e.state)) : Path c s₀ owed e.state ((e.map f).tally1 group k).state :=
  h.trans (path_tally group [(k, 1)] (e.map f))

theorem path_finish_map (f : State → State) (e : Course) (h : Path c s₀ owed e.state (f e.state)) :
    Path c s₀ owed e.state (e.map f).finish :=
  h.trans (path_finish (e.map f))

theorem path_carryOut (p : Port) (group : Option Group) (act : Option TrackAction) (e : Course)
    (hserving : e.state.gate = .serving) (h : Agreed act e.state) :
    Path c s₀ owed e.state (carryOut p group act e).state := by
  unfold carryOut
  split
  · exact Path.refl _
  · exact path_tally1_map _ _ _ e (Change.tracker _ _ _ _ _ (.opened _ hserving h.1 h.2 rfl rfl)).path
  · rename_i x
    exact path_tally1_map _ _ _ e (Change.tracker e.state _ _ e.state.petSound e.state.openCounter
      (.retried x (fun y => deadlineOf e.state y.timeoutClass) h.1 h.2)).path
  · rename_i x
    exact path_tally1_map _ _ _ e
      (Change.tracker e.state _ _ e.state.petSound e.state.openCounter (.closed x.key)).path

theorem path_discardTelegram (p : Port) (t : Telegram) (tr : Treatment) (x : Discard) (s : State) :
    Path c s₀ owed s (discardTelegram p t tr x s) := by
  unfold discardTelegram
  refine Path.trans (t := if x = .late then { s with ring := dropKey (replyKey t) s.ring } else s) ?_ ?_
  · split
    · exact (Change.tracker s s.pet _ s.petSound s.openCounter (.late (replyKey t))).path
    · exact Path.refl s
  · generalize (if x = .late then { s with ring := dropKey (replyKey t) s.ring } else s) = u
    exact (path_tally _ _ (Course.of u)).trans (path_finish_map _ _ (path_captureFor ..))

/-- A decision is a path, but that an enqueued telegram leaves its output port a taking (R17, R39). -/
theorem path_enqueueTelegram (p : Port) (t : Telegram) (tr : Treatment) (due : Option (Fin 16 × Nat)) (marked : Bool)
    (act : Option TrackAction) (s : State) (hbrings : Brings p t c s₀) (hserving : s.gate = .serving)
    (h : forwardSteps p t tr s = .enqueue due marked act) :
    ∃ m, Path c s₀ (some p.other) s m ∧ enqueueTelegram p t tr due marked act s = take p.other m := by
  obtain ⟨hhold, hup, hroom, hdue, hact⟩ := forwardSteps_enqueue p t tr due marked act s h
  have hcharged := path_charge (c := c) (s₀ := s₀) (owed := some p.other) due s hdue
  have htracked := path_carryOut (c := c) (s₀ := s₀) (owed := some p.other) p tr.group act (Course.of (charge due s))
    (by rw [charge_fields]; exact hserving) (by rw [charge_fields]; exact hact)
  have hkept := carryOut_fields p tr.group act (Course.of (charge due s))
  unfold enqueueTelegram
  dsimp only
  generalize carryOut p tr.group act (Course.of (charge due s)) = tracked at htracked hkept ⊢
  have htallied : Path c s₀ (some p.other) tracked.state
      (if marked then tracked.tally1 tr.group .overRateMarked else tracked).state := by
    split
    · exact path_tally ..
    · exact Path.refl _
  have hsame : (if marked then tracked.tally1 tr.group .overRateMarked else tracked).state =
      { tracked.state with
        tallies := (if marked then tracked.tally1 tr.group .overRateMarked else tracked).state.tallies } := by
    split
    · rw [Course.tally1, tally_fields]
    · rfl
  generalize (if marked then tracked.tally1 tr.group .overRateMarked else tracked) = e at htallied hsame ⊢
  have hports (q : Port) : e.state.port q = s.port q := by
    rw [hsame, hkept, Course.of, charge_fields]; cases q <;> rfl
  have hgate : e.state.gate = s.gate := by rw [hsame, hkept, Course.of, charge_fields]
  have hheld : e.state.hold p.direction = s.hold p.direction := by
    rw [hsame, hkept, Course.of, charge_fields]; cases p <;> rfl
  have hout : outward p.other = p.direction := by cases p <;> rfl
  have hjoined : Path c s₀ (some p.other) e.state
      (joinForward p.other { telegram := t.forwarded marked, group := tr.group } e.state) :=
    path_onPort e.state p.other _ (.join t marked tr.group rfl (by rwa [other_other]) (hgate.trans hserving)
      (by rw [hout, hheld]; exact hhold) (by rw [hports]; exact hup) (by rw [hports]; exact hroom))
  exact ⟨_, hcharged.trans (htracked.trans (htallied.trans (hjoined.trans
    (path_finish_map _ (e.map (joinForward p.other { telegram := t.forwarded marked, group := tr.group }))
      (path_captureFor ..))))), rfl⟩

theorem arrives_forwardDecision (p : Port) (t : Telegram) (tr : Treatment) (s : State) (hbrings : Brings p t c s₀)
    (hserving : s.gate = .serving) : Arrives c s₀ s (forwardDecision p t tr s) := by
  unfold forwardDecision
  split
  · exact .inl (path_discardTelegram ..)
  · rename_i hsteps
    exact .inr ⟨p.other, path_enqueueTelegram p t tr _ _ _ s hbrings hserving hsteps⟩
  · exact .inl (path_haltOn ..)

/-- The Classifier on a telegram that a command brings to it at a SERVING gate (R28 to R42). -/
theorem arrives_classify (p : Port) (t : Telegram) (s : State) (hbrings : Brings p t c s₀) (hserving : s.gate = .serving) :
    Arrives c s₀ s (classify p t s) := by
  unfold classify
  split
  · exact arrives_forwardDecision p t _ s hbrings hserving
  · exact arrives_forwardDecision p t _ s hbrings hserving
  · exact .inl (path_haltOn ..)

/-! ## Intake and frame ends -/

/-- The last three intake checks and the delivery of a telegram, at a port that receives (R7 to R10). -/
theorem arrives_intakeTelegram (p : Port) (t : Telegram) (s : State) (hg : s.gate ≠ .starting) (hup : (s.port p).line = .up)
    (hk : illAddressed s.station t = false → t.dest = s.station → t.kind = .order →
      ∀ args, t.payload = OrderCode.snapshotRead.byte :: args → Runs .snapshotRead c s₀)
    (hbrings : t.dest ≠ s.station → t.reach ≠ 0 → Brings p t c s₀) : Arrives c s₀ s (intakeTelegram p t s) := by
  have hup' : ((bump p .goodReceived s).port p).line = .up := by simpa [bump] using hup
  unfold intakeTelegram
  split
  · exact .inl (path_bump ..)
  rename_i hill
  split
  case isTrue hdest =>
    split
    case isTrue hkind =>
      exact .inl ((path_bump ..).trans (path_takeOrder p _ _ _ hg hup' (hk (by simpa using hill) hdest hkind)))
    case isFalse => exact .inl (path_bump ..)
  case isFalse hdest =>
    split
    · exact .inl (path_bump ..)
    rename_i hreach
    split
    · exact .inl (path_bump ..)
    rename_i hhalted
    have hserving : (bump p .goodReceived s).gate = .serving := by
      change s.gate = .serving
      cases hgate : s.gate with
      | starting => exact absurd hgate hg
      | serving => rfl
      | halted => exact absurd hgate hhalted
    exact (arrives_classify p t _ (hbrings hdest hreach) hserving).after fun _ => path_bump ..

end Decisions

/-- A port that receives stands at a gate that is not STARTING, on a line that is UP (R10, R12). -/
theorem receiving_iff (p : Port) (s : State) :
    receiving p s = true ↔ s.inReset = false ∧ s.gate ≠ .starting ∧ (s.port p).line = .up := by
  simp [receiving, and_assoc]

theorem arrives_intake (w : Since) (p : Port) (rest : List Byte) (s : State) (a : Assembly) (hr : receiving p s = true)
    (ha : (s.port p).assembly = some a) :
    Arrives (.frameEnd w p rest) s s (intake p (a.pushAll rest) (dropAssembly p (lapse w s))) := by
  have hdropped (owed : Option Port) : Path (.frameEnd w p rest) s owed s (dropAssembly p (lapse w s)) :=
    (path_lapse w s).trans (path_dropAssembly ..)
  obtain ⟨-, hg, hup⟩ := (receiving_iff p s).1 hr
  unfold intake
  split
  case isFalse => exact .inl ((hdropped none).trans (path_bump ..))
  case isTrue hright =>
    split
    case h_2 => exact .inl ((hdropped none).trans (path_bump ..))
    case h_1 t ht =>
      have hframed : Framed p rest s t := ⟨a, ha, hright, ht⟩
      refine (arrives_intakeTelegram p t _ ?_ ?_ ?_ ?_).after hdropped
      · simpa [dropAssembly] using hg
      · simpa [dropAssembly] using hup
      · intro hill hdest hkind args hpayload
        simp only [dropAssembly, onPort_station, lapse_station] at hill hdest
        exact .inl (.inr ⟨w, p, rest, t, args, rfl, hframed, (illAddressed_eq_false ..).1 hill, hdest, hkind, hpayload⟩)
      · intro _ hreach
        exact ⟨w, rest, rfl, .inl hframed, hreach⟩

/-- The frame end at a port just lost (R65; log entry 24). -/
theorem arrives_frameEndAfterLoss (w : Since) (p : Port) (rest : List Byte) (s : State) (a : Assembly)
    (ha : lostNow p (lapse w s) = some a) :
    Arrives (.frameEnd w p rest) s s (frameEndAfterLoss p (a.pushAll rest) (lapse w s)) := by
  obtain ⟨hdown, hnone, x, hlost, hmoment, rfl⟩ := (lostNow_eq_some w p s a).1 ha
  unfold frameEndAfterLoss
  split
  · rename_i t hright ht
    split
    case isTrue hdecided =>
      obtain ⟨hkind, hfor, htrack⟩ := (decidedAfterLoss_iff w p s t).1 hdecided
      have hframed : FramedAtLoss w p rest s t := ⟨hdown, hnone, hkind, ⟨x, hlost, hmoment, hright, ht⟩, htrack⟩
      have hserving : (bump p .goodReceived (dropLostFrame p (lapse w s))).gate = .serving := by
        simpa [bump, dropLostFrame] using hfor.1
      exact (arrives_classify p t _ ⟨w, rest, rfl, .inr hframed, hfor.2.2.2⟩ hserving).after fun _ =>
        (path_lapse w s).trans ((path_dropLostFrame ..).trans (path_bump ..))
    case isFalse => exact .inl (path_lapse w s)
  · exact .inl (path_lapse w s)

theorem arrives_frameEnd (w : Since) (p : Port) (rest : List Byte) (s : State) :
    Arrives (.frameEnd w p rest) s s (frameEnd p rest (lapse w s)) := by
  unfold frameEnd
  split
  · rename_i a hr ha
    exact arrives_intake w p rest s a (by simpa using hr) (by simpa using ha)
  · split
    · rename_i a ha
      exact arrives_frameEndAfterLoss w p rest s a ha
    · exact .inl (path_lapse w s)

/-- The frame end that an order row or a row of unknown orders stands for (R142). -/
theorem arrives_orderEnd {c : Instr} {s₀ : State} (p : Port) (h : OrderHead) (payload : List Byte) (s : State)
    (hk : ∀ args, payload = OrderCode.snapshotRead.byte :: args → Runs .snapshotRead c s₀) :
    Arrives c s₀ s (orderEnd p h payload s) := by
  unfold orderEnd
  split
  case isFalse => exact .inl (Path.refl s)
  case isTrue hr =>
    obtain ⟨-, hg, hup⟩ := (receiving_iff p s).1 hr
    refine (arrives_intakeTelegram p _ (dropAssembly p s) hg ?_ (fun _ _ _ => hk) fun hdest => ?_).after fun _ => path_dropAssembly p s
    · simpa [dropAssembly] using hup
    · exact absurd (by simp [orderTelegram, dropAssembly]) hdest

theorem arrives_orderInstr (k : OrderCode) (w : Since) (p : Port) (h : OrderHead) (args : List Byte) (s : State) :
    Arrives (orderInstr k w p h args) s s (orderEnd p h (k.byte :: args) (lapse w s)) := by
  refine (arrives_orderEnd p h _ _ fun args' hpayload => ?_).after fun _ => path_lapse w s
  have hsame : some k = some .snapshotRead := by
    rw [← orderFor_byte k, ← orderFor_byte .snapshotRead, (List.cons.inj hpayload).1]
  cases hsame
  exact .inl (.inl ⟨w, p, h, args, rfl⟩)

theorem arrives_unknownOrder (w : Since) (p : Port) (h : OrderHead) (payload : List Byte) (s : State) :
    Arrives (.unknownOrder w p h payload) s s (orderEnd p h payload (lapse w s)) :=
  (arrives_orderEnd p h payload _ fun args hpayload => .inr ⟨w, p, h, args, by rw [hpayload]⟩).after fun _ => path_lapse w s

end Sys2Proof.Proofs
end

section
/-! The events that no telegram brings as sequences of changes, and with them what every command can do: `exec_outcome`. -/

namespace Sys2Proof.Proofs

open Sys2Proof.Machine Sys2Proof.Laws Sys2Proof.Safety

/-! ## The end of a commit that completes -/

/-- A hold changes the flags and the Forward Queues it names, and the tallies (R108). -/
theorem holdNamed_tallies (down up : Bool) (e : Course) :
    (holdNamed down up e).state =
      { heldIn down up e.state with tallies := (holdNamed down up e).state.tallies } := by
  rw [holdNamed_eq, tallyQueue_fields]
  rfl

/-- A flush that notifies no one changes the tracker and the tallies alone (R62). -/
theorem flush_none_fields (e : Course) :
    (flush none e).state = { e.state with tallies := (flush none e).state.tallies, pet := [], ring := [] } := by
  have hentry (e : Course) (x : PetEntry) :
      (flushEntry none e x).state = { e.state with tallies := (flushEntry none e x).state.tallies } := by
    unfold flushEntry
    split
    · rfl
    split
    · simp only [reduceCtorEq, and_false, if_false]
      rw [Course.tally1, tally_fields]
    · rfl
  have hentries (xs : List PetEntry) (e : Course) : (xs.foldl (flushEntry none) e).state =
      { e.state with tallies := (xs.foldl (flushEntry none) e).state.tallies } := by
    induction xs generalizing e with
    | nil => rfl
    | cons x xs ih => rw [List.foldl_cons, ih, hentry]
  simp only [flush, Course.map]
  rw [hentries]

section Events

variable {c : Instr} {s₀ : State} {owed : Option Port}

theorem path_completeCommit (ctx : CommitContext) (s : State) (hc : ∃ w, c = .validationComplete w)
    (hslot : s.slot = .validating ctx) (hpassed : ctx.failure = none) :
    Path c s₀ owed s (completeCommit ctx s) := by
  let out : OutcomeRecord :=
    { requester := ctx.requester, port := ctx.port, tag := ctx.tag, result := .completed, detail := halfOfNat ctx.inUse }
  let ended (u : State) : State := { u with slot := .idle, outcome := some out }
  have hheld : Path c s₀ owed s (ended (holdNamed ctx.hold ctx.hold (Course.of (swapBanks s))).state) := by
    rw [holdNamed_tallies]
    exact (Change.complete s ctx (some out) hc hslot hpassed).path.trans
      ((Change.hold _ ctx.hold ctx.hold).path.trans (path_tallies ..))
  have hflushed : Path c s₀ owed s (ended (if ctx.keep then holdNamed ctx.hold ctx.hold (Course.of (swapBanks s))
      else flush none (holdNamed ctx.hold ctx.hold (Course.of (swapBanks s)))).state) := by
    split
    · exact hheld
    · rw [flush_none_fields]
      exact (hheld.trans (path_tallies ..)).trans (Change.tracker _ [] [] _ _ .flushed).path
  unfold completeCommit
  dsimp only
  generalize (if ctx.keep then holdNamed ctx.hold ctx.hold (Course.of (swapBanks s))
    else flush none (holdNamed ctx.hold ctx.hold (Course.of (swapBanks s)))) = e at hflushed ⊢
  exact (hflushed.trans (path_endCommit ..)).trans
    (path_finish (e.map (endCommit ctx .completed (halfOfNat ctx.inUse) (if e.found = none then e.state.gate else .halted))))

/-! ## The transmitter and the line monitor -/

/-- The gate starts: every block at its reset value, the ports as a restart or a power-on leaves them (R195, R201, R202). -/
def Begun (t : State) : Prop :=
  ∃ (portOf : PortState → PortState) (m : State) (b : Bool), (portOf = PortState.restarted ∨ portOf = PortState.poweredOn) ∧
    t = { beginStarting portOf m with inReset := b }

theorem begun_carryOutRestart (s : State) : Begun (carryOutRestart s) := ⟨_, s, false, .inl rfl, rfl⟩

theorem outcome_completeTransmission (p : Port) (x : Transmission) (s : State) :
    Arrives c s₀ s (completeTransmission p x s) ∨ Begun (completeTransmission p x s) := by
  have hfree : Path c s₀ (some p) s (freeTransmitter p (s.reach x.ends)) :=
    (path_reach ..).trans (path_onPort _ _ _ (.free rfl))
  unfold completeTransmission
  dsimp only
  split
  · rename_i y _
    exact .inl (.inr ⟨p, _, hfree.trans ((path_tally y.group (passedTallies y.telegram) (Course.of _)).trans (path_finish _)), rfl⟩)
  · split
    · exact .inr (begun_carryOutRestart _)
    · exact .inl (.inr ⟨p, _, hfree, rfl⟩)

theorem outcome_loseLine (p : Port) (s : State) : Path c s₀ none s (loseLine p s) ∨ Begun (loseLine p s) := by
  have hlost : Path c s₀ none s
      ((flush (some p.other) ((Course.of (s.onPort p (PortState.lose s.now))).tallyQueue .lineLost
        (s.port p).forwardLost)).finish) :=
    (path_onPort s p _ (.lose s.now)).trans
      ((path_tallyQueue _ _ (Course.of _)).trans ((path_flush _ _).trans (path_finish _)))
  unfold loseLine
  dsimp only
  split
  · split
    · exact .inr (begun_carryOutRestart _)
    · exact .inl hlost
  · exact .inl hlost

theorem path_signalChange (p : Port) (present : Bool) (s : State) :
    Path c s₀ owed s (s.onPort p (PortState.signalChange s.now s.inReset present)) := by
  refine path_onPort s p _ ?_
  unfold PortState.signalChange
  split
  · exact .quiet _ rfl rfl rfl rfl (.inr (.inl rfl))
  · exact .quiet _ rfl rfl rfl rfl (.inr (.inl rfl))

theorem path_lapseExchange (x : PetEntry) (s : State) (hx : x ∈ s.pet) : Path c s₀ owed s (lapseExchange x s) := by
  have hgone : Path c s₀ owed s { s with pet := removeEntry x.key s.pet, ring := pushKey x.key s.ring } :=
    (Change.tracker s _ _ s.petSound s.openCounter (.lapsed x hx)).path
  unfold lapseExchange
  split
  · dsimp only
    split
    · exact hgone.trans ((path_tally _ _ (Course.of _)).trans (path_finish_map _ _ (path_offer ..)))
    · exact hgone.trans ((path_tally _ _ (Course.of _)).trans (path_finish _))
  · exact path_haltOn ..

/-- A refill adds to the credits up to the capacity, and the next expiry comes one period later (R73, R74). -/
theorem path_refill (n : Fin 16) (due : Moment) (s : State) (hdue : s.profiles[n].nextExpiry = some due) :
    Path c s₀ owed s { s with
      profiles := modifyAt s.profiles n fun x =>
        { x.refill with nextExpiry := some (due + x.period.toNat * Config.unitsPerMs) } } := by
  refine (Change.rates s _ (rateStep_modifyAt _ n _ (rateStep_of_credits rfl (by rw [hdue]; simp) fun _ => ?_))).path
  have hcap := s.profiles[n].capacity.isLt
  rw [BitVec.le_def]
  simp only [Profile.refill, BitVec.toNat_ofNat]
  omega

theorem path_endStarting (s : State) (hreset : s.inReset = false) : Path c s₀ owed s (endStarting s) := by
  unfold endStarting
  split
  · exact path_enterHalted _ _ (.inr hreset)
  split
  · exact (Change.serve s hreset).path
  · exact path_enterHalted _ _ (.inr hreset)

end Events

/-! ## Every command -/

/-- What an event that does not occur leaves: what passed since the command before (log entry 7). -/
theorem arrives_lapse (c : Instr) (w : Since) (s : State) : Arrives c s s (lapse w s) := .inl (path_lapse w s)

theorem outcome_transmitCompletion (w : Since) (p : Port) (s t : State)
    (h : exec (.transmitCompletion w p) s = .next t) : Arrives (.transmitCompletion w p) s s t ∨ Begun t := by
  rw [exec, execTransmitCompletion] at h
  split at h <;> cases h
  · exact (outcome_completeTransmission p _ _).imp_left fun harr => harr.after fun _ => path_lapse w s
  · exact .inl (arrives_lapse ..)

theorem outcome_lineLoss (w : Since) (p : Port) (s t : State) (h : exec (.lineLoss w p) s = .next t) :
    Arrives (.lineLoss w p) s s t ∨ Begun t := by
  rw [exec, execLineLoss] at h
  split at h <;> cases h
  · exact (outcome_loseLine p _).imp_left fun hpath => .inl ((path_lapse w s).trans ((path_reach ..).trans hpath))
  · exact .inl (arrives_lapse ..)

theorem arrives_lineReturn (w : Since) (p : Port) (s t : State) (h : exec (.lineReturn w p) s = .next t) :
    Arrives (.lineReturn w p) s s t := by
  rw [exec, execLineReturn] at h
  split at h <;> cases h
  · exact .inl ((path_lapse w s).trans ((path_reach ..).trans ((path_onPort _ p _ .lineUp).trans (path_take p _))))
  · exact arrives_lapse ..

theorem arrives_deadlineExpiry (w : Since) (k : Key) (s t : State) (h : exec (.deadlineExpiry w k) s = .next t) :
    Arrives (.deadlineExpiry w k) s s t := by
  rw [exec, execDeadlineExpiry] at h
  split at h <;> cases h
  · rename_i hfound
    exact .inl ((path_lapse w s).trans ((path_reach ..).trans
      (path_lapseExchange _ _ (List.mem_of_find?_eq_some hfound))))
  · exact arrives_lapse ..

theorem arrives_periodExpiry (w : Since) (n : Fin 16) (s t : State) (h : exec (.periodExpiry w n) s = .next t) :
    Arrives (.periodExpiry w n) s s t := by
  rw [exec, execPeriodExpiry] at h
  split at h
  · rename_i due hdue
    split at h <;> cases h
    · exact arrives_lapse ..
    · exact .inl ((path_lapse w s).trans ((path_reach _ due).trans (path_refill n due _ hdue)))
  · cases h
    exact arrives_lapse ..

theorem arrives_validationComplete (w : Since) (s t : State) (h : exec (.validationComplete w) s = .next t) :
    Arrives (.validationComplete w) s s t := by
  rw [exec, execValidationComplete] at h
  split at h
  · rename_i ctx hslot
    split at h <;> cases h
    · exact .inl ((path_lapse w s).trans (path_endCommit_whole ..))
    · rename_i hpassed
      exact .inl ((path_lapse w s).trans (path_completeCommit ctx _ ⟨w, rfl⟩ hslot hpassed))
  · cases h
    exact arrives_lapse ..

theorem outcome_restartTimeLimit (w : Since) (s t : State) (h : exec (.restartTimeLimit w) s = .next t) :
    Arrives (.restartTimeLimit w) s s t ∨ Begun t := by
  rw [exec, execRestartTimeLimit] at h
  split at h <;> cases h
  · exact .inr (begun_carryOutRestart _)
  · exact .inl (arrives_lapse ..)

theorem arrives_startingEnd (w : Since) (s t : State) (h : exec (.startingEnd w) s = .next t) :
    Arrives (.startingEnd w) s s t := by
  rw [exec, execStartingEnd] at h
  split at h <;> cases h
  · rename_i hstarting
    exact .inl ((path_lapse w s).trans (path_endStarting _ hstarting.2))
  · exact arrives_lapse ..

theorem arrives_frameBegin (w : Since) (p : Port) (first : Byte) (s t : State)
    (h : exec (.frameBegin w p first) s = .next t) : Arrives (.frameBegin w p first) s s t := by
  rw [exec, execFrameBegin] at h
  split at h <;> cases h
  · rename_i hbegins
    obtain ⟨-, -, hup⟩ := (receiving_iff p _).1 hbegins.1
    exact .inl ((path_lapse w s).trans (path_onPort _ p _ (.quiet _ rfl rfl rfl rfl (.inr (.inr hup)))))
  · exact arrives_lapse ..

/-- Every command leads to a start, or by the changes of `Change` to its next state. -/
theorem exec_outcome (c : Instr) (s t : State) (h : exec c s = .next t) : Arrives c s s t ∨ Begun t := by
  have horder (k : OrderCode) (w : Since) (p : Port) (hd : OrderHead) (args : List Byte)
      (hrow : exec (orderInstr k w p hd args) s = .next t) : Arrives (orderInstr k w p hd args) s s t ∨ Begun t := by
    rw [exec_orderInstr, orderRow] at hrow
    cases hrow
    exact .inl (arrives_orderInstr ..)
  cases c with
  | frameEnd w p rest => cases h; exact .inl (arrives_frameEnd w p rest s)
  | transmitCompletion w p => exact outcome_transmitCompletion w p s t h
  | lineLoss w p => exact outcome_lineLoss w p s t h
  | lineReturn w p => exact .inl (arrives_lineReturn w p s t h)
  | deadlineExpiry w k => exact .inl (arrives_deadlineExpiry w k s t h)
  | periodExpiry w n => exact .inl (arrives_periodExpiry w n s t h)
  | validationComplete w => exact .inl (arrives_validationComplete w s t h)
  | restartTimeLimit w => exact outcome_restartTimeLimit w s t h
  | powerOn w => cases h; exact .inr ⟨_, lapse w s, false, .inr rfl, rfl⟩
  | resetAsserted w => cases h; exact .inr ⟨_, lapse w s, true, .inr rfl, rfl⟩
  | startingEnd w => exact .inl (arrives_startingEnd w s t h)
  | signalChange w p present => cases h; exact .inl (.inl ((path_lapse w s).trans (path_signalChange p present _)))
  | frameBegin w p first => exact .inl (arrives_frameBegin w p first s t h)
  | unknownOrder w p hd payload => cases h; exact .inl (arrives_unknownOrder w p hd payload s)
  | status w p hd args => exact horder .status w p hd args h
  | configRead w p hd args => exact horder .configRead w p hd args h
  | configWrite w p hd args => exact horder .configWrite w p hd args h
  | rulesRead w p hd args => exact horder .rulesRead w p hd args h
  | stageWrite w p hd args => exact horder .stageWrite w p hd args h
  | stageClear w p hd args => exact horder .stageClear w p hd args h
  | stageClone w p hd args => exact horder .stageClone w p hd args h
  | commit w p hd args => exact horder .commit w p hd args h
  | abandon w p hd args => exact horder .abandon w p hd args h
  | hold w p hd args => exact horder .hold w p hd args h
  | release w p hd args => exact horder .release w p hd args h
  | profileRead w p hd args => exact horder .profileRead w p hd args h
  | profileWrite w p hd args => exact horder .profileWrite w p hd args h
  | exchangeList w p hd args => exact horder .exchangeList w p hd args h
  | exchangeFlush w p hd args => exact horder .exchangeFlush w p hd args h
  | snapshot w p hd args => exact horder .snapshot w p hd args h
  | snapshotRead w p hd args => exact horder .snapshotRead w p hd args h
  | tallyClear w p hd args => exact horder .tallyClear w p hd args h
  | portCounters w p hd args => exact horder .portCounters w p hd args h
  | captureRead w p hd args => exact horder .captureRead w p hd args h
  | captureClear w p hd args => exact horder .captureClear w p hd args h
  | wordRead w p hd args => exact horder .wordRead w p hd args h
  | wordWrite w p hd args => exact horder .wordWrite w p hd args h
  | restart w p hd args => exact horder .restart w p hd args h

/-- What holds of every started gate, and is kept by every change and by a last taking, every step keeps. -/
theorem step_keeps (I : State → Prop) (hstart : ∀ t, Begun t → I t)
    (hchange : ∀ (c : Instr) (s₀ : State) (owed : Option Port) (s t : State), Change c s₀ owed s t → I s → I t)
    (hpending : ∀ (s : State) (cs : List Instr), I s → I { s with pending := cs }) (s t : State) (hs : I s)
    (h : step s = .next t) : I t := by
  unfold step at h
  split at h
  · cases h; exact hs
  · rename_i c cs _
    have hs' := hpending s cs hs
    rcases exec_outcome c _ t h with (hpath | ⟨p, m, hpath, rfl⟩) | hbegun
    · exact hpath.keeps I (hchange c _ _) hs'
    · exact (hpath.trans (path_take p m)).keeps I (hchange c _ _) hs'
    · exact hstart t hbegun

end Sys2Proof.Proofs
end

section
/-! The invariants and the rules over every command (O4 to O12): each is kept by every change of `Change` and by a last taking, and
holds of every gate that starts. -/

namespace Sys2Proof.Proofs

open Sys2Proof.Machine Sys2Proof.Laws Sys2Proof.Safety

/-! ## Gates that start -/

/-- A gate that starts has blank ports: nothing waits, nothing is sent, nothing is assembled (R195). -/
theorem begun_port {t : State} (h : Begun t) (p : Port) :
    (t.port p).forwardQ = [] ∧ (t.port p).localQ = [] ∧ (t.port p).sending = none ∧ (t.port p).assembly = none := by
  obtain ⟨portOf, m, b, rfl | rfl, rfl⟩ := h
  · cases p <;> exact ⟨rfl, rfl, rfl, rfl⟩
  · cases p <;> exact ⟨rfl, rfl, rfl, rfl⟩

/-- A gate that starts is STARTING, with every other block at its reset value (R195). -/
theorem begun_blocks {t : State} (h : Begun t) :
    t.gate = .starting ∧ t.holdDown = true ∧ t.holdUp = true ∧ t.pet = [] ∧ t.ring = [] ∧ t.slot = .idle ∧
      t.profiles = Vector.replicate 16 Profile.reset ∧ (∀ which, t.bank which = RuleBank.reset) ∧ t.captures = [] ∧
      t.settings = Settings.reset := by
  obtain ⟨portOf, m, b, -, rfl⟩ := h
  exact ⟨rfl, rfl, rfl, rfl, rfl, rfl, rfl, fun which => by cases which <;> rfl, rfl, rfl⟩

/-- A capture request touches the Capture Queue and the overflow count alone (R135). -/
theorem requestCapture_fields (x : CaptureRecord) (s : State) :
    requestCapture x s =
      { s with captures := (requestCapture x s).captures, overflow := (requestCapture x s).overflow } := by
  unfold requestCapture
  split <;> rfl

/-! ## Lines and queues (R12 to R17) -/

/-- A port within its queues' capacities, still and empty on a line that is DOWN, with nothing waiting at a free transmitter unless
it still owes a taking. -/
def PortOk (owes : Prop) (q : PortState) : Prop :=
  q.forwardQ.length ≤ Config.forwardCapacity ∧ q.localQ.length ≤ Config.localCapacity ∧ downOk q ∧
    (owes ∨ (q.sending = none → q.forwardQ = [] ∧ q.localQ = []))

theorem linesOk_iff (s : State) : LinesOk s ↔ ∀ p, PortOk False (s.port p) := by
  constructor
  · rintro ⟨⟨hc1, hc2, hc3⟩, ⟨hf1, hf2, hf3⟩, hc, hf⟩ p
    cases p
    · exact ⟨hc1, hc2, hc, .inr hc3⟩
    · exact ⟨hf1, hf2, hf, .inr hf3⟩
  · intro h
    obtain ⟨hc1, hc2, hc, hc3⟩ := h .c
    obtain ⟨hf1, hf2, hf, hf3⟩ := h .f
    exact ⟨⟨hc1, hc2, hc3.resolve_left id⟩, ⟨hf1, hf2, hf3.resolve_left id⟩, hc, hf⟩

/-- After its taking a port owes none (R17). -/
theorem portOk_take {owes : Prop} (now bt : Nat) {q : PortState} (h : PortOk owes q) : PortOk False (q.take now bt) := by
  obtain ⟨hfwd, hloc, hdown, howes⟩ := h
  unfold PortState.take
  split
  case isTrue hfree =>
    have hnotDown (q' : PortState) (hline : q'.line = q.line) : downOk q' := fun hd => by
      rw [hline, hfree.1] at hd; cases hd
    split
    · rename_i x xs hq
      refine ⟨hfwd, ?_, hnotDown _ rfl, .inr fun hs => by cases hs⟩
      rw [hq] at hloc
      exact Nat.le_of_succ_le hloc
    · split
      · rename_i hq x xs hq'
        refine ⟨?_, hloc, hnotDown _ rfl, .inr fun hs => by cases hs⟩
        rw [hq'] at hfwd
        exact Nat.le_of_succ_le hfwd
      · rename_i hq _ hq'
        exact ⟨hfwd, hloc, hdown, .inr fun _ => ⟨hq', hq⟩⟩
  case isFalse hbusy =>
    refine ⟨hfwd, hloc, hdown, .inr fun hs => ?_⟩
    cases hline : q.line with
    | up => exact absurd ⟨hline, hs⟩ hbusy
    | down => exact ⟨(hdown hline).1, (hdown hline).2.1⟩

theorem PortOk.mono {owes owes' : Prop} {q : PortState} (himp : owes → owes') (h : PortOk owes q) : PortOk owes' q :=
  ⟨h.1, h.2.1, h.2.2.1, h.2.2.2.imp_left himp⟩

theorem portOk_offer {owes : Prop} (now bt : Nat) (k : PortCounter) (t : Telegram) {q : PortState} (h : PortOk owes q) :
    PortOk owes (q.offer now bt k t) := by
  unfold PortState.offer
  split
  case isTrue hroom =>
    simp only [PortState.hasRoom, Bool.and_eq_true, decide_eq_true_eq] at hroom
    have hjoined : PortOk True { q with localQ := q.localQ ++ [{ telegram := t, restartAnswer := false }] } :=
      ⟨h.1, by simpa using hroom.2, fun hd => absurd (hroom.1.symm.trans hd) (by decide), .inl trivial⟩
    exact (portOk_take now bt hjoined).mono False.elim
  case isFalse => exact h

theorem portOk_placeHead {owes : Prop} (now bt : Nat) (t : Telegram) {q : PortState} (hup : q.line = .up) (h : PortOk owes q) :
    PortOk owes (q.placeHead now bt t) := by
  obtain ⟨hfwd, hloc, -, -⟩ := h
  have hnotDown (q' : PortState) (hline : q'.line = q.line) : downOk q' := fun hd =>
    absurd (hup.symm.trans (hline.symm.trans hd)) (by decide)
  unfold PortState.placeHead
  dsimp only
  split
  case isTrue hroom =>
    have hplaced : PortOk True { q with localQ := { telegram := t, restartAnswer := true } :: q.localQ } :=
      ⟨hfwd, hroom, hnotDown _ rfl, .inl trivial⟩
    exact (portOk_take now bt hplaced).mono False.elim
  case isFalse hfull =>
    refine PortOk.mono False.elim (portOk_take (owes := True) now bt ⟨hfwd, ?_, hnotDown _ rfl, .inl trivial⟩)
    simp only [count_localQ, List.length_cons, List.length_dropLast, Config.localCapacity] at hloc hfull ⊢
    omega

/-- Every change of a port keeps it within its bounds, but that a port may come to owe a taking. -/
theorem portOk_change {c : Instr} {s₀ : State} {owed : Option Port} {s : State} {p : Port} {q' : PortState}
    (h : PortChange c s₀ owed s p q') (hs : PortOk (owed = some p) (s.port p)) : PortOk (owed = some p) q' := by
  obtain ⟨hfwd, hloc, hdown, howes⟩ := hs
  cases h with
  | quiet _ hline hfwd' hloc' hsend hasm =>
    refine ⟨by rwa [hfwd'], by rwa [hloc'], fun hd => ?_, by rwa [hsend, hfwd', hloc']⟩
    rw [hline] at hd
    obtain ⟨h1, h2, h3, h4⟩ := hdown hd
    refine ⟨hfwd'.trans h1, hloc'.trans h2, hsend.trans h3, ?_⟩
    rcases hasm with hnone | hsame | hup
    · exact hnone
    · exact hsame.trans h4
    · rw [hup] at hd; cases hd
  | take now bt => exact (portOk_take now bt ⟨hfwd, hloc, hdown, howes⟩).mono False.elim
  | offer now bt k t => exact portOk_offer now bt k t ⟨hfwd, hloc, hdown, howes⟩
  | placeHead now bt t hup => exact portOk_placeHead now bt t hup ⟨hfwd, hloc, hdown, howes⟩
  | free howed => exact ⟨hfwd, hloc, fun hd => ⟨(hdown hd).1, (hdown hd).2.1, rfl, (hdown hd).2.2.2⟩, .inl howed⟩
  | join u marked g howed _ _ _ hup hroom =>
    refine ⟨?_, hloc, fun hd => ?_, .inl howed⟩
    · simpa using hroom
    · exact absurd (hup.symm.trans hd) (by decide)
  | lose now => exact ⟨Nat.zero_le _, Nat.zero_le _, fun _ => ⟨rfl, rfl, rfl, rfl⟩, .inr fun _ => ⟨rfl, rfl⟩⟩
  | lineUp => exact ⟨hfwd, hloc, fun hd => (nomatch hd), howes⟩

/-- A Forward Queue emptied stays within the bounds. -/
theorem portOk_emptied {owes : Prop} {q : PortState} (h : PortOk owes q) (b : Bool) :
    PortOk owes { q with forwardQ := if b then [] else q.forwardQ } := by
  cases b
  · exact h
  · obtain ⟨-, hloc, hdown, howes⟩ := h
    exact ⟨Nat.zero_le _, hloc, fun hd => ⟨rfl, (hdown hd).2⟩, howes.imp_right fun hfree hs => ⟨rfl, (hfree hs).2⟩⟩

theorem lines_change {c : Instr} {s₀ : State} {owed : Option Port} {s t : State} (h : Change c s₀ owed s t)
    (hs : ∀ p, PortOk (owed = some p) (s.port p)) (p : Port) : PortOk (owed = some p) (t.port p) := by
  cases h with
  | outside w => rw [lapse_port]; exact hs p
  | port p' q' hq =>
    rw [port_setPort]
    split
    case isTrue heq => subst heq; exact portOk_change hq (hs p)
    case isFalse => exact hs p
  | staging b hslot => rw [setBank_port]; exact hs p
  | hold down up =>
    cases p
    · exact portOk_emptied (hs .c) up
    · exact portOk_emptied (hs .f) down
  | halt fault v out hgate hv =>
    cases p
    · exact portOk_emptied (hs .c) true
    · exact portOk_emptied (hs .f) true
  | captured x hkept => rw [requestCapture_fields]; cases p <;> exact hs _
  | _ => cases p <;> exact hs _

theorem begun_linesOk {t : State} (h : Begun t) : LinesOk t := by
  rw [linesOk_iff]
  intro p
  obtain ⟨hfwd, hloc, hsend, hasm⟩ := begun_port h p
  exact ⟨by simp [hfwd], by simp [hloc], fun _ => ⟨hfwd, hloc, hsend, hasm⟩, .inr fun _ => ⟨hfwd, hloc⟩⟩

/-- Every command keeps the lines and queues (R12 to R17). -/
theorem linesOk_exec {c : Instr} {s t : State} (hs : LinesOk s) (h : exec c s = .next t) : LinesOk t := by
  rw [linesOk_iff] at hs
  rcases exec_outcome c s t h with (hpath | ⟨p, m, hpath, rfl⟩) | hbegun
  · rw [linesOk_iff]
    have hend := hpath.keeps (fun u => ∀ p, PortOk (none = some p) (u.port p)) (fun u v hchange hu => lines_change hchange hu)
      fun p => (hs p).mono False.elim
    exact fun p => (hend p).mono nofun
  · rw [linesOk_iff]
    have hend := hpath.keeps (fun u => ∀ p', PortOk (some p = some p') (u.port p')) (fun u v hchange hu => lines_change hchange hu)
      fun p' => (hs p').mono False.elim
    intro p'
    rw [take, port_onPort]
    split
    case isTrue => exact portOk_take _ _ (hend p)
    case isFalse hne => exact (hend p').mono fun heq => hne (Option.some.inj heq).symm
  · exact begun_linesOk hbegun

/-! ## Held Forward Queues (R107) -/

/-- A Forward Queue that may only be empty stays so but for a telegram that joins it. -/
theorem portChange_forwardQ {c : Instr} {s₀ : State} {owed : Option Port} {s : State} {p : Port} {q' : PortState}
    (h : PortChange c s₀ owed s p q') (hempty : (s.port p).forwardQ = []) :
    q'.forwardQ = [] ∨ (s.gate = .serving ∧ s.hold (outward p) = false) := by
  have htake (now bt : Nat) (q : PortState) (hq : q.forwardQ = []) : (q.take now bt).forwardQ = [] := by
    unfold PortState.take
    rw [hq]
    split
    · split
      · rfl
      · exact hq
    · exact hq
  cases h with
  | quiet _ _ hfwd => exact .inl (hfwd.trans hempty)
  | take now bt => exact .inl (htake now bt _ hempty)
  | offer now bt k t =>
    unfold PortState.offer
    split
    · exact .inl (htake now bt _ hempty)
    · exact .inl hempty
  | placeHead now bt t =>
    refine .inl (htake now bt _ ?_)
    dsimp only
    split <;> exact hempty
  | free => exact .inl hempty
  | join _ _ _ _ _ hserving hopen => exact .inr ⟨hserving, hopen⟩
  | lose => exact .inl rfl
  | lineUp => exact .inl hempty

theorem holdsOk_iff (s : State) : HoldsOk s ↔ ∀ p, s.hold (outward p) = true → (s.port p).forwardQ = [] :=
  ⟨fun h p => by cases p; exacts [h.2, h.1], fun h => ⟨h .f, h .c⟩⟩

theorem holdsOk_change {c : Instr} {s₀ : State} {owed : Option Port} {s t : State} (h : Change c s₀ owed s t)
    (hs : HoldsOk s) : HoldsOk t := by
  cases h with
  | outside w => simpa [HoldsOk] using hs
  | port p' q' hq =>
    rw [holdsOk_iff] at hs ⊢
    intro p hhold
    rw [setPort_hold] at hhold
    rw [port_setPort]
    split
    case isTrue heq =>
      subst heq
      rcases portChange_forwardQ hq (hs p hhold) with hempty | ⟨-, hopen⟩
      · exact hempty
      · rw [hopen] at hhold; cases hhold
    case isFalse => exact hs p hhold
  | hold down up =>
    refine ⟨fun hhold => ?_, fun hhold => ?_⟩
    · cases down
      · exact hs.1 hhold
      · rfl
    · cases up
      · exact hs.2 hhold
      · rfl
  | release down up _ =>
    refine ⟨fun hhold => hs.1 ?_, fun hhold => hs.2 ?_⟩
    · cases down
      · exact hhold
      · cases hhold
    · cases up
      · exact hhold
      · cases hhold
  | halt fault v out _ _ => exact ⟨fun _ => rfl, fun _ => rfl⟩
  | captured x hkept => rw [requestCapture_fields]; exact hs
  | _ => exact hs

theorem begun_holdsOk {t : State} (h : Begun t) : HoldsOk t :=
  ⟨fun _ => (begun_port h .f).1, fun _ => (begun_port h .c).1⟩

/-- Settles O4: a path may leave one port a taking owed, which the taking then makes good (`linesOk_exec`); a telegram joins a Forward
Queue only while its direction's hold is clear. -/
theorem stepKeepsLinesAndHolds : Obligations.StepKeepsLinesAndHolds := by
  constructor
  · intro s t hs h
    unfold step at h
    split at h
    · cases h; exact hs
    · rename_i c cs _
      exact linesOk_exec (s := { s with pending := cs }) hs h
  · exact step_keeps HoldsOk (fun _ => begun_holdsOk) (fun _ _ _ _ _ => holdsOk_change) fun _ _ hs => hs

end Sys2Proof.Proofs
end

section
/-! The Exchange Tracker, the Rate Unit, the Rule Store and the stopped gate under every command (O5 to O8). -/

namespace Sys2Proof.Proofs

open Sys2Proof.Machine Sys2Proof.Laws Sys2Proof.Safety

/-! ## The Exchange Tracker (R43 to R45, R49, R70) -/

/-- While the table has room its lowest free storage slot is free, and every lower one is taken (R43). -/
theorem freeSlot_spec (pet : List PetEntry) (hroom : pet.length < 64) :
    (∀ x ∈ pet, x.slot ≠ freeSlot pet) ∧ ∀ j < freeSlot pet, ∃ x ∈ pet, x.slot = j := by
  have hfree : ∃ i : Fin 64, ∀ x ∈ pet, x.slot ≠ i := by
    by_contra hfull
    push Not at hfull
    have hcover : (Finset.univ : Finset (Fin 64)) ⊆ (pet.map PetEntry.slot).toFinset := fun i _ => by
      obtain ⟨x, hx, hi⟩ := hfull i
      exact List.mem_toFinset.2 (List.mem_map.2 ⟨x, hx, hi⟩)
    have hcard := (Finset.card_le_card hcover).trans (List.toFinset_card_le _)
    rw [Finset.card_univ, Fintype.card_fin, List.length_map] at hcard
    omega
  obtain ⟨i, hi⟩ := hfree
  unfold freeSlot
  cases hfind : (List.finRange 64).find? fun i => !(pet.any fun x => decide (x.slot = i)) with
  | none =>
    have hall := List.find?_eq_none.1 hfind i (List.mem_finRange i)
    simp only [Bool.not_eq_true', Bool.not_eq_false, List.any_eq_true, decide_eq_true_eq] at hall
    obtain ⟨x, hx, heq⟩ := hall
    exact absurd heq (hi x hx)
  | some j =>
    rw [Option.getD_some]
    obtain ⟨htest, before, after, hsplit, hbefore⟩ := List.find?_eq_some_iff_append.1 hfind
    constructor
    · simpa using htest
    · intro k hk
      have hsorted := List.pairwise_lt_finRange 64
      rw [hsplit, List.pairwise_append, List.pairwise_cons] at hsorted
      have hmem := List.mem_finRange k
      rw [hsplit, List.mem_append, List.mem_cons] at hmem
      rcases hmem with hmem | rfl | hmem
      · simpa using hbefore k hmem
      · exact absurd hk (lt_irrefl _)
      · exact absurd hk (lt_asymm (hsorted.2.1.1 k hmem))

/-- Entries with one key are one entry (R43). -/
theorem entry_of_key {pet : List PetEntry} (hnodup : (pet.map PetEntry.key).Nodup) {x y : PetEntry} (hx : x ∈ pet) (hy : y ∈ pet)
    (hkey : y.key = x.key) : y = x := List.inj_on_of_nodup_map hnodup hy hx hkey

/-- A retry used within the allowance stays within it (R51, R53). -/
theorem used_succ_le {a b : BitVec 2} (h : a < b) : a + 1 ≤ b := by
  revert a b; decide

theorem pushKey_length (k : Key) {ring : List Key} (h : ring.length ≤ Config.ringCapacity) :
    (pushKey k ring).length ≤ Config.ringCapacity := by
  unfold pushKey
  rw [List.length_append, List.length_singleton]
  have hpositive : 1 ≤ Config.ringCapacity := by decide
  split
  · omega
  · rw [List.length_drop]; omega

/-- The ring a key joins keeps only keys that it held, and the new one (R49). -/
theorem mem_pushKey {k k' : Key} {ring : List Key} (h : k' ∈ pushKey k ring) : k' ∈ ring ∨ k' = k := by
  unfold pushKey at h
  rw [List.mem_append, List.mem_singleton] at h
  refine h.imp_left fun hmem => ?_
  split at hmem
  · exact hmem
  · exact List.mem_of_mem_drop hmem

theorem pushKey_nodup {k : Key} {ring : List Key} (hnodup : ring.Nodup) (hnew : k ∉ ring) : (pushKey k ring).Nodup := by
  have hsub : (if ring.length < Config.ringCapacity then ring else ring.drop 1).Sublist ring := by
    split
    · exact List.Sublist.refl _
    · exact List.drop_sublist 1 ring
  refine List.nodup_append.2 ⟨hnodup.sublist hsub, List.nodup_singleton _, fun a ha b hb heq => ?_⟩
  rw [List.mem_singleton] at hb
  exact hnew (hb ▸ heq ▸ hsub.subset ha)

theorem trackerOk_tracker {s t : State} (h : TrackerChange s t.pet t.ring) (hs : TrackerOk s) : TrackerOk t := by
  obtain ⟨hkeys, hslots, hsize, hused, hring, hringNodup, hclosed⟩ := hs
  unfold TrackerOk
  generalize t.pet = pet at h ⊢
  generalize t.ring = ring at h ⊢
  cases h with
  | opened x _ hnew hroom hslot hzero =>
    have hfree := (freeSlot_spec s.pet hroom).1
    refine ⟨?_, ?_, by simpa using hroom, ?_, (List.length_filter_le _ _).trans hring, hringNodup.filter _, ?_⟩
    · rw [List.map_append]
      exact List.nodup_append.2 ⟨hkeys, List.nodup_singleton _, by simpa using hnew⟩
    · rw [List.map_append]
      exact List.nodup_append.2 ⟨hslots, List.nodup_singleton _, by simpa [hslot] using hfree⟩
    · intro y hy
      rcases List.mem_append.1 hy with hy | hy
      · exact hused y hy
      · rw [List.mem_singleton.1 hy, hzero]; exact Nat.zero_le _
    · intro y hy hmem
      rw [dropKey, List.mem_filter, decide_eq_true_eq] at hmem
      rcases List.mem_append.1 hy with hy | hy
      · exact hclosed y hy hmem.1
      · exact hmem.2 (by rw [List.mem_singleton.1 hy])
  | retried x deadline hx hallowed =>
    have hkey : PetEntry.key ∘ retriedEntry x.key deadline = PetEntry.key := funext (retriedEntry_key x.key deadline)
    have hslot : PetEntry.slot ∘ retriedEntry x.key deadline = PetEntry.slot := funext (retriedEntry_slot x.key deadline)
    refine ⟨by rwa [List.map_map, hkey], by rwa [List.map_map, hslot], by simpa using hsize, ?_, hring, hringNodup, ?_⟩
    · intro z hz
      obtain ⟨y, hy, rfl⟩ := List.mem_map.1 hz
      unfold retriedEntry
      split
      case isTrue heq =>
        rw [entry_of_key hkeys hx hy heq]
        exact used_succ_le hallowed
      case isFalse => exact hused y hy
    · intro z hz
      obtain ⟨y, hy, rfl⟩ := List.mem_map.1 hz
      rw [retriedEntry_key]
      exact hclosed y hy
  | closed k =>
    have hsub : (removeEntry k s.pet).Sublist s.pet := List.filter_sublist
    exact ⟨hkeys.sublist (hsub.map _), hslots.sublist (hsub.map _), hsub.length_le.trans hsize, fun y hy => hused y (hsub.subset hy),
      hring, hringNodup, fun y hy => hclosed y (hsub.subset hy)⟩
  | lapsed x hx =>
    have hsub : (removeEntry x.key s.pet).Sublist s.pet := List.filter_sublist
    refine ⟨hkeys.sublist (hsub.map _), hslots.sublist (hsub.map _), hsub.length_le.trans hsize, fun y hy => hused y (hsub.subset hy),
      pushKey_length _ hring, pushKey_nodup hringNodup (hclosed x hx), fun y hy hmem => ?_⟩
    rw [removeEntry, List.mem_filter, decide_eq_true_eq] at hy
    exact (mem_pushKey hmem).elim (hclosed y hy.1) hy.2
  | late k =>
    exact ⟨hkeys, hslots, hsize, hused, (List.length_filter_le _ _).trans hring, hringNodup.filter _,
      fun y hy hmem => hclosed y hy (List.mem_of_mem_filter hmem)⟩
  | flushed => exact ⟨List.nodup_nil, List.nodup_nil, Nat.zero_le _, nofun, Nat.zero_le _, List.nodup_nil, nofun⟩

theorem trackerOk_change {c : Instr} {s₀ : State} {owed : Option Port} {s t : State} (h : Change c s₀ owed s t)
    (hs : TrackerOk s) : TrackerOk t := by
  cases h with
  | outside w => simpa [TrackerOk] using hs
  | tracker pet ring sound n h => exact trackerOk_tracker h hs
  | halt => exact trackerOk_tracker .flushed hs
  | captured x hkept => rw [requestCapture_fields]; exact hs
  | _ => exact hs

theorem begun_trackerOk {t : State} (h : Begun t) : TrackerOk t := by
  obtain ⟨-, -, -, hpet, hring, -⟩ := begun_blocks h
  unfold TrackerOk
  rw [hpet, hring]
  exact ⟨List.nodup_nil, List.nodup_nil, Nat.zero_le _, nofun, Nat.zero_le _, List.nodup_nil, nofun⟩

/-- Settles O5: an opening takes a new key and a free slot, a retry stays within its allowance, and a key joins the ring only as its
exchange leaves the table (`trackerOk_tracker`). -/
theorem stepKeepsTrackerOk : Obligations.StepKeepsTrackerOk :=
  step_keeps TrackerOk (fun _ => begun_trackerOk) (fun _ _ _ _ _ => trackerOk_change) fun _ _ hs => hs

/-! ## The Rate Unit (R73, R74) -/

/-- A restart leaves a profile's credits full and its period running, or an undefined one as it is (R81). -/
theorem rateStep_restart (now : Moment) (x : Profile) : RateStep x (x.restart now) := by
  unfold Profile.restart
  split
  case isTrue => exact rateStep_self x
  case isFalse hdefined => exact ⟨rfl, fun _ => ⟨BitVec.le_refl _, iff_of_false hdefined (by simp)⟩⟩

theorem ratesOk_change {c : Instr} {s₀ : State} {owed : Option Port} {s t : State} (h : Change c s₀ owed s t)
    (hs : RatesOk s) : RatesOk t := by
  cases h with
  | outside w => simpa [RatesOk] using hs
  | rates v hv => exact fun n => (hv n).2 (hs n)
  | profile n x hx =>
    intro m
    by_cases hm : n = m
    · subst hm; simpa [RateOk] using hx
    · have hne : n.val ≠ m.val := fun heq => hm (Fin.ext heq)
      simpa [Vector.getElem_set, hne] using hs m
  | complete ctx out =>
    intro n
    have hrestart := (rateStep_restart s.now s.profiles[n]).2 (hs n)
    simpa [swapBanks, RateOk] using hrestart
  | captured x hkept => rw [requestCapture_fields]; exact hs
  | _ => exact hs

theorem begun_ratesOk {t : State} (h : Begun t) : RatesOk t := by
  obtain ⟨-, -, -, -, -, -, hprofiles, -⟩ := begun_blocks h
  intro n
  simp [hprofiles, Profile.reset]

/-- Settles O6: each change of the profiles is a charge, a refill, a restart or a PROFILE_WRITE, and each keeps a profile's credits
within its capacity and its period running exactly while it is defined. -/
theorem stepKeepsRatesOk : Obligations.StepKeepsRatesOk :=
  step_keeps RatesOk (fun _ => begun_ratesOk) (fun _ _ _ _ _ => ratesOk_change) fun _ _ hs => hs

/-! ## The stopped gate (R195, R198) -/

/-- At a gate with an empty tracker, only one that is SERVING comes to track anything. -/
theorem trackerChange_empty {s : State} {pet : List PetEntry} {ring : List Key} (h : TrackerChange s pet ring)
    (hserving : s.gate ≠ .serving) (hpet : s.pet = []) (hring : s.ring = []) : pet = [] ∧ ring = [] := by
  cases h with
  | opened _ hgate => exact absurd hgate hserving
  | retried x _ hx => rw [hpet] at hx; cases hx
  | closed k => rw [hpet]; exact ⟨rfl, hring⟩
  | lapsed x hx => rw [hpet] at hx; cases hx
  | late k => rw [hring]; exact ⟨hpet, rfl⟩
  | flushed => exact ⟨rfl, rfl⟩

theorem stoppedOk_change {c : Instr} {s₀ : State} {owed : Option Port} {s t : State} (h : Change c s₀ owed s t)
    (hs : StoppedOk s) : StoppedOk t := by
  obtain ⟨hstopped, hreset⟩ := hs
  cases h with
  | outside w => simpa [StoppedOk] using And.intro hstopped hreset
  | port p q' hq =>
    refine ⟨fun hgate => ?_, hreset⟩
    obtain ⟨hdown, hup, hc, hf, hrest⟩ := hstopped hgate
    have hempty : q'.forwardQ = [] :=
      (portChange_forwardQ hq (by cases p <;> assumption)).resolve_right fun hserving => hgate hserving.1
    cases p
    · exact ⟨hdown, hup, hempty, hf, hrest⟩
    · exact ⟨hdown, hup, hc, hempty, hrest⟩
  | tracker pet ring sound n htracker =>
    refine ⟨fun hgate => ?_, hreset⟩
    obtain ⟨hdown, hup, hc, hf, hpet, hring, hslot⟩ := hstopped hgate
    obtain ⟨hpet', hring'⟩ := trackerChange_empty htracker hgate hpet hring
    exact ⟨hdown, hup, hc, hf, hpet', hring', hslot⟩
  | staging b hslot => exact ⟨hstopped, hreset⟩
  | commit ctx hserving => exact ⟨fun hgate => absurd hserving hgate, hreset⟩
  | leaveSlot v out hv =>
    refine ⟨fun hgate => ?_, hreset⟩
    obtain ⟨hdown, hup, hc, hf, hpet, hring, -⟩ := hstopped hgate
    exact ⟨hdown, hup, hc, hf, hpet, hring, hv⟩
  | complete ctx out =>
    refine ⟨fun hgate => ?_, hreset⟩
    obtain ⟨hdown, hup, hc, hf, hpet, hring, -⟩ := hstopped hgate
    exact ⟨hdown, hup, hc, hf, hpet, hring, by simp [Slot.state]⟩
  | hold down up =>
    refine ⟨fun hgate => ?_, hreset⟩
    obtain ⟨hdown, hup, hc, hf, hrest⟩ := hstopped hgate
    exact ⟨by simp [heldIn, hdown], by simp [heldIn, hup], by simp [heldIn, hc], by simp [heldIn, hf], hrest⟩
  | release down up hserving => exact ⟨fun hgate => absurd hserving hgate, hreset⟩
  | halt fault v out hgate hv =>
    refine ⟨fun _ => ⟨rfl, rfl, rfl, rfl, rfl, rfl, hv⟩, fun hheld => ?_⟩
    rcases hgate with hserving | hnot
    · exact absurd (hserving.symm.trans (hreset hheld)) (by decide)
    · exact absurd (hheld.symm.trans hnot) (by decide)
  | serve hnot => exact ⟨fun hgate => absurd rfl hgate, fun hheld => absurd (hheld.symm.trans hnot) (by decide)⟩
  | captured x hkept => rw [requestCapture_fields]; exact ⟨hstopped, hreset⟩
  | _ => exact ⟨hstopped, hreset⟩

theorem begun_stoppedOk {t : State} (h : Begun t) : StoppedOk t := by
  obtain ⟨hgate, hdown, hup, hpet, hring, hslot, -⟩ := begun_blocks h
  exact ⟨fun _ => ⟨hdown, hup, (begun_port h .c).1, (begun_port h .f).1, hpet, hring, by rw [hslot]; decide⟩, fun _ => hgate⟩

/-- Settles O8: a telegram joins a queue, an exchange opens, a commit is taken and a hold is released only at a SERVING gate, and a
gate becomes one that is not SERVING only by a halt or a start, which empty all of them. -/
theorem stepKeepsStoppedOk : Obligations.StepKeepsStoppedOk :=
  step_keeps StoppedOk (fun _ => begun_stoppedOk) (fun _ _ _ _ _ => stoppedOk_change) fun _ _ hs => hs

end Sys2Proof.Proofs
end

section
/-! The Rule Store under every command (O7): validation of a bank reads its items and which profiles are defined, and nothing else. -/

namespace Sys2Proof.Proofs

open Sys2Proof.Machine Sys2Proof.Laws Sys2Proof.Safety

/-! ## Validation (R91) -/

/-- The seven checks, as R91 words them: an entry fails the check that a reason names. -/
def Fails (profiles : Vector Profile 16) (e : RuleEntry) : Reason → Prop
  | .sourceRange => e.sourceHigh.toNat < e.sourceLow.toNat
  | .destRange => e.destHigh.toNat < e.destLow.toNat ∨ (e.destLow = 255 ∧ e.destHigh ≠ 255)
  | .noKind => e.kinds = 0
  | .noDirection => e.downward = false ∧ e.upward = false
  | .profileOnBlock => e.action = .block ∧ e.profile ≠ none
  | .undefinedProfile => ∃ n, e.profile = some n ∧ profiles[n].capacity = 0
  | .trackFields => e.action ≠ .track ∧ ¬(e.timeoutClass = 0 ∧ e.allowance = 0 ∧ e.notice = false)

/-- An entry fails a check and none that comes before it (R91). -/
def FailsFirst (profiles : Vector Profile 16) (e : RuleEntry) (r : Reason) : Prop :=
  Fails profiles e r ∧ ∀ r', (reasonNumber r').toNat < (reasonNumber r).toNat → ¬Fails profiles e r'

/-- Validation of an entry finds the first check it fails, or none when it fails none (R91). -/
theorem entryFailure_cases (profiles : Vector Profile 16) (e : RuleEntry) :
    (entryFailure profiles e = none ∧ ∀ r, ¬Fails profiles e r) ∨
      ∃ r, entryFailure profiles e = some r ∧ FailsFirst profiles e r := by
  have hundefined (n : Option (Fin 16)) (heq : e.profile = n) :
      Fails profiles e .undefinedProfile ↔ ∃ m, n = some m ∧ profiles[m].capacity = 0 := by rw [← heq]; rfl
  have htrack : Fails profiles e .trackFields ↔
      e.action ≠ .track ∧ (e.timeoutClass ≠ 0 ∨ e.allowance ≠ 0 ∨ e.notice = true) := by
    simp only [Fails, not_and_or, Bool.not_eq_false, ne_eq]
  unfold entryFailure
  split_ifs with h1 h2 h3 h4 h5 h6 h7
  · refine .inr ⟨_, rfl, h1, fun r' hlt => ?_⟩
    cases r' <;> exact absurd hlt (by decide)
  · refine .inr ⟨_, rfl, h2, fun r' hlt => ?_⟩
    cases r' with
    | sourceRange => exact h1
    | _ => exact absurd hlt (by decide)
  · refine .inr ⟨_, rfl, h3, fun r' hlt => ?_⟩
    cases r' with
    | sourceRange => exact h1
    | destRange => exact h2
    | _ => exact absurd hlt (by decide)
  · refine .inr ⟨_, rfl, h4, fun r' hlt => ?_⟩
    cases r' with
    | sourceRange => exact h1
    | destRange => exact h2
    | noKind => exact h3
    | _ => exact absurd hlt (by decide)
  · refine .inr ⟨_, rfl, h5, fun r' hlt => ?_⟩
    cases r' with
    | sourceRange => exact h1
    | destRange => exact h2
    | noKind => exact h3
    | noDirection => exact h4
    | _ => exact absurd hlt (by decide)
  · have hfails : Fails profiles e .undefinedProfile := by
      split at h6
      · rename_i n hn
        exact (hundefined _ hn).2 ⟨n, rfl, by simpa using h6⟩
      · cases h6
    refine .inr ⟨_, rfl, hfails, fun r' hlt => ?_⟩
    cases r' with
    | sourceRange => exact h1
    | destRange => exact h2
    | noKind => exact h3
    | noDirection => exact h4
    | profileOnBlock => exact h5
    | _ => exact absurd hlt (by decide)
  all_goals
    have hdefined : ¬Fails profiles e .undefinedProfile := by
      split at h6
      · rename_i n hn
        rw [hundefined _ hn]
        rintro ⟨m, hm, hcap⟩
        cases hm
        exact h6 (by simpa using hcap)
      · rename_i hn
        rw [hundefined _ hn]
        rintro ⟨m, hm, -⟩
        cases hm
  · refine .inr ⟨_, rfl, htrack.2 h7, fun r' hlt => ?_⟩
    cases r' with
    | sourceRange => exact h1
    | destRange => exact h2
    | noKind => exact h3
    | noDirection => exact h4
    | profileOnBlock => exact h5
    | undefinedProfile => exact hdefined
    | trackFields => exact absurd hlt (by decide)
  · refine .inl ⟨rfl, fun r' => ?_⟩
    cases r' with
    | sourceRange => exact h1
    | destRange => exact h2
    | noKind => exact h3
    | noDirection => exact h4
    | profileOnBlock => exact h5
    | undefinedProfile => exact hdefined
    | trackFields => exact fun h => h7 (htrack.1 h)

/-- An entry passes validation exactly when it fails none of the seven checks (R91). -/
theorem entryFailure_eq_none_iff (profiles : Vector Profile 16) (e : RuleEntry) :
    entryFailure profiles e = none ↔ ∀ r, ¬Fails profiles e r := by
  rcases entryFailure_cases profiles e with ⟨hnone, hpasses⟩ | ⟨r, hsome, hfails, -⟩
  · exact iff_of_true hnone hpasses
  · rw [hsome]
    exact iff_of_false (by simp) fun h => h r hfails

/-- A passing entry passes under any profiles of which it names none that has become undefined. -/
theorem entryFailure_none_of_defined {profiles profiles' : Vector Profile 16} {e : RuleEntry}
    (h : entryFailure profiles e = none)
    (hdefined : Fails profiles' e .undefinedProfile → Fails profiles e .undefinedProfile) :
    entryFailure profiles' e = none := by
  rw [entryFailure_eq_none_iff] at h ⊢
  intro r hr
  cases r with
  | undefinedProfile => exact h .undefinedProfile (hdefined hr)
  | sourceRange => exact h .sourceRange hr
  | destRange => exact h .destRange hr
  | noKind => exact h .noKind hr
  | noDirection => exact h .noDirection hr
  | profileOnBlock => exact h .profileOnBlock hr
  | trackFields => exact h .trackFields hr

/-- A list of entries passes exactly when each in-use one does (R91). -/
theorem bankFailureIn_eq_none_iff (profiles : Vector Profile 16) (bank : RuleBank) (is : List RuleIndex) :
    bankFailureIn profiles bank is = none ↔
      ∀ i ∈ is, bank[i].item.inUse = true → entryFailure profiles bank[i].item = none := by
  induction is with
  | nil => simp [bankFailureIn]
  | cons i is ih =>
    rw [bankFailureIn, List.forall_mem_cons]
    split
    case isTrue huse =>
      cases hfail : entryFailure profiles bank[i].item with
      | none => exact ih.trans ⟨fun h => ⟨fun _ => rfl, h⟩, And.right⟩
      | some r => exact iff_of_false (by simp) fun h => by simpa using h.1 huse
    case isFalse huse => exact ih.trans ⟨fun h => ⟨fun h' => absurd h' huse, h⟩, And.right⟩

theorem bankFailure_eq_none_iff (profiles : Vector Profile 16) (bank : RuleBank) :
    bankFailure profiles bank = none ↔
      ∀ i : RuleIndex, bank[i].item.inUse = true → entryFailure profiles bank[i].item = none :=
  (bankFailureIn_eq_none_iff profiles bank _).trans ⟨fun h i => h i (List.mem_finRange i), fun h i _ => h i⟩

/-- Validation reads of a profile only its capacity (R91). -/
theorem entryFailure_congr {profiles profiles' : Vector Profile 16}
    (hcap : ∀ n : Fin 16, profiles'[n].capacity = profiles[n].capacity) (e : RuleEntry) :
    entryFailure profiles' e = entryFailure profiles e := by
  unfold entryFailure
  cases e.profile with
  | none => rfl
  | some n => simp only [hcap n]

/-- Validation reads of a bank only its items, whatever their check codes (R91, R197). -/
theorem bankFailure_congr {profiles profiles' : Vector Profile 16} {bank bank' : RuleBank}
    (hcap : ∀ n : Fin 16, profiles'[n].capacity = profiles[n].capacity)
    (hitems : ∀ i : RuleIndex, bank'[i].item = bank[i].item) : bankFailure profiles' bank' = bankFailure profiles bank := by
  unfold bankFailure
  generalize List.finRange 128 = is
  induction is with
  | nil => rfl
  | cons i is ih => simp only [bankFailureIn, hitems i, entryFailure_congr hcap, ih]

/-- The number of in-use entries is that of the items, whatever their check codes. -/
theorem inUseCount_congr {bank bank' : RuleBank} (hitems : ∀ i : RuleIndex, bank'[i].item = bank[i].item) :
    inUseCount bank' = inUseCount bank := by
  have hlist : bank'.toList.map Checked.item = bank.toList.map Checked.item := by
    apply List.ext_getElem (by simp)
    intro n hn hn'
    simpa using hitems ⟨n, by simpa using hn⟩
  have hcount (b : RuleBank) : inUseCount b = (b.toList.map Checked.item).countP RuleEntry.inUse := by
    rw [List.countP_map]; rfl
  rw [hcount, hcount, hlist]

/-- A bank at its reset value passes validation: none of its entries is in use (R21, R91). -/
theorem bankFailure_reset (profiles : Vector Profile 16) : bankFailure profiles RuleBank.reset = none := by
  rw [bankFailure_eq_none_iff]
  intro i huse
  simp [RuleBank.reset, Checked.fresh, RuleEntry.reset] at huse

/-! ## The Rule Store (R91, R92) -/

/-- What the claim on the Rule Store reads: the profiles' capacities, the banks' items and roles, and the Command Slot. -/
theorem rulesOk_congr {s t : State} (hcap : ∀ n : Fin 16, t.profiles[n].capacity = s.profiles[n].capacity)
    (hitems : ∀ (which : Bank) (i : RuleIndex), (t.bank which)[i].item = (s.bank which)[i].item)
    (hactive : t.activeBank = s.activeBank) (hslot : ∀ ctx, t.slot = .validating ctx → s.slot = .validating ctx)
    (hs : RulesOk s) : RulesOk t := by
  obtain ⟨hvalid, hcommit⟩ := hs
  have hstaging : t.stagingBank = s.stagingBank := congrArg Bank.other hactive
  refine ⟨?_, fun ctx hctx => ?_⟩
  · rw [hactive, bankFailure_congr hcap (hitems _)]; exact hvalid
  · rw [hstaging, bankFailure_congr hcap (hitems _), inUseCount_congr (hitems _)]
    exact hcommit ctx (hslot ctx hctx)

theorem not_validating_of_state {v : Slot} (hv : v.state ≠ .validating) (ctx : CommitContext) : v ≠ .validating ctx := by
  rintro rfl
  exact hv rfl

theorem bank_other_ne (which : Bank) : which ≠ which.other := by
  cases which <;> decide

theorem swapBanks_capacity (s : State) (n : Fin 16) : (swapBanks s).profiles[n].capacity = s.profiles[n].capacity := by
  simp only [swapBanks, Fin.getElem_fin, Vector.getElem_map]
  exact (rateStep_restart s.now s.profiles[n]).1

theorem swapBanks_bank (s : State) (which : Bank) : (swapBanks s).bank which = s.bank which := by
  cases which <;> rfl

theorem rulesOk_change {c : Instr} {s₀ : State} {owed : Option Port} {s t : State} (h : Change c s₀ owed s t)
    (hs : RulesOk s) : RulesOk t := by
  cases h with
  | outside w =>
    exact rulesOk_congr (by simp) (lapse_sameItems w s).1 (by simp) (by simp) hs
  | rates v hv => exact rulesOk_congr (fun n => (hv n).1) (fun which _ => by cases which <;> rfl) rfl (fun _ => id) hs
  | profile n x hrate hslot hnamed =>
    refine ⟨?_, fun ctx hctx => absurd hctx (not_validating_of_state hslot ctx)⟩
    rw [bankFailure_eq_none_iff]
    intro i huse
    refine entryFailure_none_of_defined ((bankFailure_eq_none_iff _ _).1 hs.1 i huse) ?_
    rintro ⟨m, hm, hcap⟩
    refine ⟨m, hm, ?_⟩
    by_cases hnm : n = m
    · subst hnm
      exact absurd ⟨i, huse, hm⟩ (hnamed (by simpa using hcap))
    · have hne : n.val ≠ m.val := fun heq => hnm (Fin.ext heq)
      simpa [Vector.getElem_set, hne] using hcap
  | staging b hslot =>
    refine ⟨?_, fun ctx hctx => absurd hctx (not_validating_of_state hslot ctx)⟩
    rw [setBank_activeBank, bank_setBank, State.stagingBank, if_neg (bank_other_ne _)]
    exact hs.1
  | commit ctx hserving hfailure hinUse =>
    refine ⟨hs.1, fun ctx' hctx => ?_⟩
    obtain rfl : ctx = ctx' := Slot.validating.inj hctx
    exact ⟨hfailure, hinUse⟩
  | leaveSlot v out hv =>
    exact rulesOk_congr (s := s) (fun _ => rfl) (fun which _ => by cases which <;> rfl) rfl
      (fun ctx hctx => absurd hctx (not_validating_of_state hv ctx)) hs
  | complete ctx out hc hslot hpassed =>
    refine ⟨?_, nofun⟩
    have hstaging : bankFailure s.profiles (s.bank s.stagingBank) = none :=
      (hs.2 ctx hslot).1.symm.trans hpassed
    have hactive := bankFailure_congr (bank := s.bank s.stagingBank) (bank' := (swapBanks s).bank s.stagingBank)
      (swapBanks_capacity s) fun i => by rw [swapBanks_bank]
    exact hactive.trans hstaging
  | halt fault v out hgate hv =>
    exact rulesOk_congr (s := s) (fun _ => rfl) (fun which _ => by cases which <;> rfl) rfl
      (fun ctx hctx => absurd hctx (not_validating_of_state hv ctx)) hs
  | captured x hkept => rw [requestCapture_fields]; exact hs
  | _ => exact hs

theorem begun_rulesOk {t : State} (h : Begun t) : RulesOk t := by
  obtain ⟨-, -, -, -, -, hslot, -, hbank, -⟩ := begun_blocks h
  refine ⟨by rw [hbank]; exact bankFailure_reset _, fun ctx hctx => ?_⟩
  rw [hslot] at hctx
  cases hctx

/-- Settles O7: no change writes the Active bank; a commit completes only with the passing result of its Staging bank, which no change
writes meanwhile; and no profile that an in-use Active entry names becomes undefined. -/
theorem stepKeepsRulesOk : Obligations.StepKeepsRulesOk :=
  step_keeps RulesOk (fun _ => begun_rulesOk) (fun _ _ _ _ _ => rulesOk_change) fun _ _ hs => hs

end Sys2Proof.Proofs
end

section
/-! The Capture Queue and the settings under every command (O9), and the three rules over every command (O10 to O12). -/

namespace Sys2Proof.Proofs

open Sys2Proof.Machine Sys2Proof.Laws Sys2Proof.Safety

/-! ## Parameter checks that pass (R150, R163) -/

/-- A check followed by another passes exactly when both do. -/
theorem except_bind_eq_ok {α β : Type} (x : Except Nat α) (f : α → Except Nat β) (b : β) :
    (x >>= f) = .ok b ↔ ∃ a, x = .ok a ∧ f a = .ok b := by
  cases x with
  | error e => exact iff_of_false nofun fun ⟨a, ha, _⟩ => nomatch ha
  | ok a => exact ⟨fun h => ⟨a, rfl, h⟩, fun ⟨a', ha, h⟩ => by cases ha; exact h⟩

/-! ## The settings a CONFIG_WRITE leaves (R161, R167) -/

theorem stationOk_of_noticeOf {x : Byte} {v : Option Byte} (h : noticeOf x = some v) : ∀ y, v = some y → stationOk y = true := by
  unfold noticeOf at h
  intro y hy
  split at h
  case isTrue hok => cases h; cases hy; exact hok
  case isFalse =>
    split at h
    · cases h; cases hy
    · cases h

/-- A one-byte field in range leaves the settings in their ranges (R161). -/
theorem writeByteField_keeps {s : State} {k : Fin 13} {x : Byte} {st st' : Settings} (h : writeByteField k x st = some st')
    (hs : SettingsOk { s with settings := st }) : SettingsOk { s with settings := st' } := by
  obtain ⟨hlow, hhigh, hclass, hreach, hc, hf⟩ := hs
  unfold writeByteField at h
  split at h
  · obtain ⟨v, -, rfl⟩ := Option.map_eq_some_iff.1 h; exact ⟨hlow, hhigh, hclass, hreach, hc, hf⟩
  · obtain ⟨v, -, rfl⟩ := Option.map_eq_some_iff.1 h; exact ⟨hlow, hhigh, hclass, hreach, hc, hf⟩
  · obtain ⟨v, -, rfl⟩ := Option.map_eq_some_iff.1 h; exact ⟨hlow, hhigh, hclass, hreach, hc, hf⟩
  · obtain ⟨v, -, rfl⟩ := Option.map_eq_some_iff.1 h; exact ⟨hlow, hhigh, hclass, hreach, hc, hf⟩
  · split at h
    case isTrue hlimit => cases h; exact ⟨hlimit.1, hlimit.2, hclass, hreach, hc, hf⟩
    case isFalse => cases h
  · obtain ⟨v, -, rfl⟩ := Option.map_eq_some_iff.1 h; exact ⟨hlow, hhigh, hclass, hreach, hc, hf⟩
  · obtain ⟨v, hv, rfl⟩ := Option.map_eq_some_iff.1 h
    exact ⟨hlow, hhigh, hclass, hreach, stationOk_of_noticeOf hv, hf⟩
  · obtain ⟨v, hv, rfl⟩ := Option.map_eq_some_iff.1 h
    exact ⟨hlow, hhigh, hclass, hreach, hc, stationOk_of_noticeOf hv⟩
  · split at h
    case isTrue hrange =>
      cases h
      refine ⟨hlow, hhigh, hclass, fun hzero => ?_, hc, hf⟩
      have hnat := congrArg BitVec.toNat hzero
      simp only [BitVec.extractLsb'_toNat, Nat.shiftRight_zero] at hnat
      change x.toNat % 16 = 0 at hnat
      omega
    case isFalse => cases h
  · cases h

/-- A timeout-class value in range leaves the settings in their ranges (R161). -/
theorem writeClassField_keeps {s : State} {k : Fin 4} {x : Half} {st st' : Settings} (h : writeClassField k x st = some st')
    (hs : SettingsOk { s with settings := st }) : SettingsOk { s with settings := st' } := by
  obtain ⟨hlow, hhigh, hclass, hreach, hc, hf⟩ := hs
  unfold writeClassField at h
  split at h
  · cases h
  rename_i hx
  cases h
  refine ⟨hlow, hhigh, fun j => ?_, hreach, hc, hf⟩
  simp only [Fin.getElem_fin, Vector.getElem_set]
  split
  · exact hx
  · exact hclass j

theorem readField_keeps {s : State} {args : List Byte} {k : Fin 13} {pos pos' : Nat} {st st' : Settings}
    (h : readField args k pos st = .ok (st', pos')) (hs : SettingsOk { s with settings := st }) :
    SettingsOk { s with settings := st' } := by
  unfold readField at h
  split at h
  · obtain ⟨x, -, h⟩ := (except_bind_eq_ok ..).1 h
    split at h
    · rename_i hwrite; cases h; exact writeClassField_keeps hwrite hs
    · cases h
  · obtain ⟨x, -, h⟩ := (except_bind_eq_ok ..).1 h
    split at h
    · rename_i hwrite; cases h; exact writeByteField_keeps hwrite hs
    · cases h

theorem readFields_keeps {s : State} {args : List Byte} {ks : List (Fin 13)} {pos pos' : Nat} {st st' : Settings}
    (h : readFields args ks pos st = .ok (st', pos')) (hs : SettingsOk { s with settings := st }) :
    SettingsOk { s with settings := st' } := by
  induction ks generalizing pos st with
  | nil => cases h; exact hs
  | cons k ks ih =>
    rw [readFields] at h
    split at h
    · cases h
    · rename_i hfield
      exact ih h (readField_keeps hfield hs)

/-- A CONFIG_WRITE that passes its checks leaves the settings in their ranges (R161, R167). -/
theorem configWriteArgs_keeps {s : State} {args : List Byte} {x : Settings} {n : Nat}
    (h : configWriteArgs args s.settings = .ok (x, n)) (hs : SettingsOk s) : SettingsOk { s with settings := x } := by
  unfold configWriteArgs at h
  obtain ⟨mask, -, h⟩ := (except_bind_eq_ok ..).1 h
  obtain ⟨-, -, h⟩ := (except_bind_eq_ok ..).1 h
  obtain ⟨⟨st, pos⟩, hfields, h⟩ := (except_bind_eq_ok ..).1 h
  obtain ⟨-, -, h⟩ := (except_bind_eq_ok ..).1 h
  cases h
  exact readFields_keeps hfields hs

theorem settingsOk_change {c : Instr} {s₀ : State} {owed : Option Port} {s t : State} (h : Change c s₀ owed s t)
    (hs : SettingsOk s) : SettingsOk t := by
  cases h with
  | outside w => simpa [SettingsOk] using hs
  | settings x args n hargs => exact configWriteArgs_keeps hargs hs
  | captured x hkept => rw [requestCapture_fields]; exact hs
  | _ => exact hs

theorem settingsOk_reset : SettingsOk { State.reset with settings := Settings.reset } := by
  refine ⟨by decide, by decide, by decide, by decide, nofun, nofun⟩

/-! ## The Capture Queue (R131, R133, R135) -/

theorem capturesOk_request {s : State} (x : CaptureRecord) (hkept : x.kept.length ≤ Config.keptPayload) (hs : CapturesOk s) :
    CapturesOk (requestCapture x s) := by
  unfold requestCapture
  split
  case isTrue hroom =>
    refine ⟨by simpa using hroom, fun y hy => ?_⟩
    rcases List.mem_append.1 hy with hy | hy
    · exact hs.2 y hy
    · rw [List.mem_singleton.1 hy]; exact hkept
  case isFalse => exact hs

theorem capturesOk_change {c : Instr} {s₀ : State} {owed : Option Port} {s t : State} (h : Change c s₀ owed s t)
    (hs : CapturesOk s) : CapturesOk t := by
  cases h with
  | outside w => simpa [CapturesOk] using hs
  | captured x hkept => exact capturesOk_request x hkept hs
  | uncaptured xs n hsub => exact ⟨hsub.length_le.trans hs.1, fun y hy => hs.2 y (hsub.subset hy)⟩
  | _ => exact hs

theorem begun_capturesOk {t : State} (h : Begun t) : CapturesOk t := by
  obtain ⟨-, -, -, -, -, -, -, -, hempty, -⟩ := begun_blocks h
  unfold CapturesOk
  rw [hempty]
  exact ⟨Nat.zero_le _, nofun⟩

theorem begun_settingsOk {t : State} (h : Begun t) : SettingsOk t := by
  obtain ⟨-, -, -, -, -, -, -, -, -, hreset⟩ := begun_blocks h
  unfold SettingsOk
  rw [hreset]
  exact settingsOk_reset

/-- Settles O9: a record joins the queue only while it has room, and a settings field is written only with a value in its range. -/
theorem stepKeepsCapturesAndSettings : Obligations.StepKeepsCapturesAndSettings := fun s t hcaptures hsettings h =>
  ⟨step_keeps CapturesOk (fun _ => begun_capturesOk) (fun _ _ _ _ _ => capturesOk_change) (fun _ _ hs => hs) s t hcaptures h,
    step_keeps SettingsOk (fun _ => begun_settingsOk) (fun _ _ _ _ _ => settingsOk_change) (fun _ _ hs => hs) s t hsettings h⟩

/-! ## What comes into a Forward Queue (R14, R17, R42) -/

/-- A forwarded item stands in a port's Forward Queue or in its transmitter's hands. -/
def Carries (x : Forwarded) (q : PortState) : Prop :=
  x ∈ q.forwardQ ∨ ∃ y, q.sending = some y ∧ y.item = .forwarded x

/-- A taking brings nothing new to a port: it moves the head of a queue into the transmitter's hands (R17). -/
theorem carries_take {x : Forwarded} {now bt : Nat} {q : PortState} (h : Carries x (q.take now bt)) : Carries x q := by
  unfold PortState.take at h
  split at h
  · split at h
    · rcases h with hqueue | ⟨y, hy, hitem⟩
      · exact .inl hqueue
      · cases hy; cases hitem
    · split at h
      · rename_i y ys hq
        left
        rw [hq]
        rcases h with hqueue | ⟨z, hz, hitem⟩
        · exact List.mem_cons_of_mem _ hqueue
        · cases hz; cases hitem; exact List.mem_cons_self
      · exact h
  · exact h

/-- A change of a port brings a forwarded item there only by the joining at that port's turn (R39). -/
theorem carries_change {c : Instr} {s₀ : State} {owed : Option Port} {s : State} {p : Port} {q' : PortState} {x : Forwarded}
    (h : PortChange c s₀ owed s p q') (hx : Carries x q') :
    Carries x (s.port p) ∨ ∃ u marked, Brings p.other u c s₀ ∧ x.telegram = u.forwarded marked := by
  cases h with
  | quiet _ _ hfwd _ hsend => unfold Carries at hx; rw [hfwd, hsend] at hx; exact .inl hx
  | take now bt => exact .inl (carries_take hx)
  | offer now bt k t =>
    unfold PortState.offer at hx
    split at hx
    · have hbefore := carries_take hx
      exact .inl hbefore
    · exact .inl hx
  | placeHead now bt t hup =>
    unfold PortState.placeHead at hx
    dsimp only at hx
    split at hx
    · have hbefore := carries_take hx
      exact .inl hbefore
    · have hbefore := carries_take hx
      exact .inl hbefore
  | free => exact .inl (hx.imp_right fun ⟨y, hy, _⟩ => nomatch hy)
  | join u marked g _ hbrings =>
    rcases hx with hqueue | hsending
    · rcases List.mem_append.1 hqueue with hold | hnew
      · exact .inl (.inl hold)
      · exact .inr ⟨u, marked, hbrings, by rw [List.mem_singleton.1 hnew]⟩
    · exact .inl (.inr hsending)
  | lose now =>
    rcases hx with hqueue | ⟨y, hy, -⟩
    · cases hqueue
    · cases hy
  | lineUp => exact .inl hx

/-- Where a port's forwarded items come from: they stood there when the command was taken, or the command brought them. -/
def Forwards (c : Instr) (s₀ s : State) : Prop :=
  ∀ p x, Carries x (s.port p) →
    Carries x (s₀.port p) ∨ ∃ u marked, Brings p.other u c s₀ ∧ x.telegram = u.forwarded marked

theorem carries_emptied {x : Forwarded} {q : PortState} {b : Bool}
    (h : Carries x { q with forwardQ := if b then [] else q.forwardQ }) : Carries x q := by
  cases b
  · exact h
  · exact h.imp_left nofun

theorem forwards_change {c : Instr} {s₀ : State} {owed : Option Port} {s t : State} (h : Change c s₀ owed s t)
    (hs : Forwards c s₀ s) : Forwards c s₀ t := by
  intro p x hx
  cases h with
  | outside w => rw [lapse_port] at hx; exact hs p x hx
  | port p' q' hq =>
    rw [port_setPort] at hx
    split at hx
    case isTrue heq =>
      subst heq
      exact (carries_change hq hx).elim (hs p x) .inr
    case isFalse => exact hs p x hx
  | staging b hslot => rw [setBank_port] at hx; exact hs p x hx
  | hold down up =>
    cases p
    · exact hs .c x (carries_emptied (b := up) hx)
    · exact hs .f x (carries_emptied (b := down) hx)
  | halt fault v out hgate hv =>
    cases p
    · exact hs .c x (carries_emptied (b := true) hx)
    · exact hs .f x (carries_emptied (b := true) hx)
  | captured r hkept => rw [requestCapture_fields] at hx; cases p <;> exact hs _ x hx
  | _ => cases p <;> exact hs _ x hx

/-- Settles O10: among the changes only the joining brings a forwarded item to a port, and it is the telegram of the frame end that
the command is. -/
theorem onlyAFrameEndForwards : Obligations.OnlyAFrameEndForwards := by
  intro c s t p x h hx
  have hstart : Forwards c s s := fun _ _ => .inl
  have hforwards : Forwards c s t := by
    rcases exec_outcome c s t h with (hpath | ⟨p', m, hpath, rfl⟩) | hbegun
    · exact hpath.keeps (Forwards c s) (fun _ _ => forwards_change) hstart
    · exact (hpath.trans (path_take p' m)).keeps (Forwards c s) (fun _ _ => forwards_change) hstart
    · intro p' y hy
      obtain ⟨hfwd, -, hsend, -⟩ := begun_port hbegun p'
      rcases hy with hqueue | ⟨z, hz, -⟩
      · rw [hfwd] at hqueue; cases hqueue
      · rw [hsend] at hz; cases hz
  rcases hforwards p x hx with hold | ⟨u, marked, ⟨w, rest, hc, hframe, hreach⟩, htelegram⟩
  · exact .inl hold
  · exact .inr ⟨w, rest, u, marked, hc, hframe, hreach, htelegram⟩

/-! ## When the Active rules change (R27, R85, R95) -/

/-- The Active role, the generation and the items of the Active bank are those of `s₀`. -/
def SameActive (s₀ s : State) : Prop :=
  s.activeBank = s₀.activeBank ∧ s.generation = s₀.generation ∧
    ∀ i : RuleIndex, (s.bank s.activeBank)[i].item = (s₀.bank s₀.activeBank)[i].item

theorem sameActive_change {c : Instr} {s₀ : State} {owed : Option Port} {s t : State} (h : Change c s₀ owed s t)
    (hs : SameActive s₀ s ∨ ∃ w, c = .validationComplete w) : SameActive s₀ t ∨ ∃ w, c = .validationComplete w := by
  rcases hs with ⟨hactive, hgeneration, hitems⟩ | hcommit
  case inr => exact .inr hcommit
  cases h with
  | outside w =>
    refine .inl ⟨(lapse_activeBank w s).trans hactive, (lapse_generation w s).trans hgeneration, fun i => ?_⟩
    rw [lapse_activeBank, (lapse_sameItems w s).1]
    exact hitems i
  | port p q' => exact .inl ⟨hactive, hgeneration, fun i => by rw [setPort_activeBank, setPort_bank]; exact hitems i⟩
  | staging b hslot =>
    refine .inl ⟨hactive, hgeneration, fun i => ?_⟩
    rw [setBank_activeBank, bank_setBank, State.stagingBank, if_neg (bank_other_ne _)]
    exact hitems i
  | complete ctx out hc => exact .inr hc
  | captured r hkept => rw [requestCapture_fields]; exact .inl ⟨hactive, hgeneration, hitems⟩
  | _ => exact .inl ⟨hactive, hgeneration, hitems⟩

/-- Settles O11: the banks are written in the Staging role alone and change roles only as a validation completes, or the gate starts. -/
theorem activeRulesChangeOnlyAtCommitOrStart : Obligations.ActiveRulesChangeOnlyAtCommitOrStart := by
  intro c s t h
  have hstart : SameActive s s ∨ ∃ w, c = .validationComplete w := .inl ⟨rfl, rfl, fun _ => rfl⟩
  rcases exec_outcome c s t h with (hpath | ⟨p, m, hpath, rfl⟩) | hbegun
  · exact (hpath.keeps _ (fun _ _ => sameActive_change) hstart).imp_right .inl
  · exact ((hpath.trans (path_take p m)).keeps _ (fun _ _ => sameActive_change) hstart).imp_right .inl
  · exact .inr (.inr (begun_blocks hbegun).1)

/-! ## When a HELD slot changes (R118, R123) -/

/-- A group's slot holds the values of `x`, whatever its check code. -/
def HoldsValues (g : Group) (x : Snapshot) (s : State) : Prop :=
  ∃ y, s.snapshots[g] = some y ∧ y.counters = x.counters ∧ y.saturated = x.saturated ∧ y.generation = x.generation ∧
    y.sequence = x.sequence

theorem holdsValues_change {c : Instr} {s₀ : State} {owed : Option Port} {s t : State} {g : Group} {x : Snapshot}
    (h : Change c s₀ owed s t) (hs : HoldsValues g x s ∨ Runs .snapshotRead c s₀) :
    HoldsValues g x t ∨ Runs .snapshotRead c s₀ := by
  rcases hs with ⟨y, hy, hcounters, hsaturated, hgeneration, hsequence⟩ | hread
  case inr => exact .inr hread
  cases h with
  | outside w =>
    have hsame := (lapse_sameItems w s).2.2 g
    rw [hy] at hsame
    obtain ⟨z, hz, heq⟩ := Option.map_eq_some_iff.1 hsame
    injection heq with h1 h2 h3 h4
    exact .inl ⟨z, hz, h1.trans hcounters, h2.trans hsaturated, h3.trans hgeneration, h4.trans hsequence⟩
  | snapshots v hkept =>
    exact hkept.imp_left fun hv => ⟨y, hv g y hy, hcounters, hsaturated, hgeneration, hsequence⟩
  | captured r hkept => rw [requestCapture_fields]; exact .inl ⟨y, hy, hcounters, hsaturated, hgeneration, hsequence⟩
  | _ => exact .inl ⟨y, hy, hcounters, hsaturated, hgeneration, hsequence⟩

/-- A command that a line can bring carries out an order only as one that it delivers (R142, R205). -/
theorem delivers_of_runs {k : OrderCode} {c : Instr} {s₀ : State} (hwf : c.wellFormed = true) (h : Runs k c s₀) :
    Delivers k c s₀ := by
  refine h.resolve_right ?_
  rintro ⟨w, p, hd, args, rfl⟩
  obtain ⟨-, -, -, hcode⟩ := OperandsFit.unknownOrder w p hd (k.byte :: args) hwf hd _ none rfl
  rw [List.headD_cons, orderFor_byte] at hcode
  cases hcode

/-- Settles O12: an upset touches a slot's check code alone, a SNAPSHOT writes only EMPTY slots, and only a SNAPSHOT_READ empties one. -/
theorem heldSlotsKeepTheirValues : Obligations.HeldSlotsKeepTheirValues := by
  intro c s t g x hwf h hx
  have hstart : HoldsValues g x s ∨ Runs .snapshotRead c s := .inl ⟨x, hx, rfl, rfl, rfl, rfl⟩
  have hfinish (u : State) (hu : HoldsValues g x u ∨ Runs .snapshotRead c s) :
      HoldsValues g x u ∨ Delivers .snapshotRead c s ∨ u.gate = .starting :=
    hu.imp_right fun hruns => .inl (delivers_of_runs hwf hruns)
  rcases exec_outcome c s t h with (hpath | ⟨p, m, hpath, rfl⟩) | hbegun
  · exact hfinish _ (hpath.keeps _ (fun _ _ => holdsValues_change) hstart)
  · exact hfinish _ ((hpath.trans (path_take p m)).keeps _ (fun _ _ => holdsValues_change) hstart)
  · exact .inr (.inr (begun_blocks hbegun).1)

end Sys2Proof.Proofs
end

section
/-! The step, reset and the events that start the gate (O1 to O3, O36), the first byte of a frame (O16), the refill (O32), and the
encodings (O13 to O15). -/

namespace Sys2Proof.Proofs

open Sys2Proof.Machine Sys2Proof.Laws Sys2Proof.Safety

/-! ## The step and reset -/

/-- Settles O1: both clauses are the two cases of `step`. -/
theorem stepRunsTheFrontCommand : Obligations.StepRunsTheFrontCommand := by
  refine ⟨fun c rest s => rfl, fun s hempty => ?_⟩
  unfold step
  rw [hempty]

/-- Settles O2: each block of `State.reset` is written out there, the tables as one value everywhere. -/
theorem resetHoldsTheValuesOfStart : Obligations.ResetHoldsTheValuesOfStart := by
  refine ⟨rfl, rfl, rfl, rfl, fun which i => ?_, rfl, rfl, rfl, fun n => ?_, rfl, rfl, fun g k => ⟨?_, ?_⟩, rfl, rfl, rfl, rfl, rfl,
    rfl, fun i => ?_, fun p => ?_⟩
  · cases which <;> simp [State.bank, State.reset, RuleBank.reset, RuleEntry.reset]
  · simp [State.reset, Profile.reset]
  · simp [State.reset, Checked.fresh, Counters.zero]
  · simp [State.reset]
  · simp [State.reset]
  · cases p <;> refine ⟨rfl, rfl, rfl, rfl, rfl, rfl, rfl, fun k => ?_⟩ <;> simp [State.port, State.reset, PortState.fresh]

/-- The gate right after reset is one at power-on (R202). -/
theorem begun_reset : Begun State.reset := ⟨PortState.poweredOn, State.reset, false, .inr rfl, rfl⟩

/-- Settles O3: the gate right after reset is one that starts, which meets every invariant. -/
theorem resetMeetsTheInvariants : Obligations.ResetMeetsTheInvariants :=
  ⟨begun_linesOk begun_reset, begun_holdsOk begun_reset, begun_trackerOk begun_reset, begun_ratesOk begun_reset,
    begun_rulesOk begun_reset, begun_stoppedOk begun_reset, begun_capturesOk begun_reset, begun_settingsOk begun_reset⟩

/-- Settles O36: the three events begin STARTING by `beginStarting`, and a gate held in reset receives nothing. -/
theorem startsAndReset : Obligations.StartsAndReset := by
  intro w s
  refine ⟨rfl, fun r hslot => ?_, rfl, fun t ht p => ?_⟩
  · have hrestarting : (lapse w s).slot = .restarting r := by simpa using hslot
    rw [exec, execRestartTimeLimit, hrestarting]
    rfl
  · cases ht
    rfl

/-! ## Frames and refills -/

/-- Settles O16: FRAME_BEGIN stores its byte exactly where the port receives and assembles nothing; the frame end is
`frameEnd_nothing`. -/
theorem frameBeginStoresTheFirstByte : Obligations.FrameBeginStoresTheFirstByte := by
  intro w p first s
  refine ⟨fun hr hnone => ?_, fun hnot => ?_, fun rest hquiet hlost => frameEnd_nothing w p rest s hquiet hlost⟩
  · rw [exec, execFrameBegin, receiving_lapse, lapse_port, if_pos ⟨hr, hnone⟩]
    rfl
  · rw [exec, execFrameBegin, receiving_lapse, lapse_port, if_neg]
    rintro ⟨hr, hnone⟩
    rcases hnot with hdeaf | hbusy
    · rw [hr] at hdeaf; cases hdeaf
    · exact hbusy hnone

/-- The refilled credits, by whether the amount fits under the capacity (R74). -/
theorem refill_credits (x : Profile) :
    x.refill.credits =
      if x.credits.toNat + x.amount.toNat ≤ x.capacity.toNat then x.credits + x.amount else x.capacity := by
  have hcap := x.capacity.isLt
  simp only [Profile.refill]
  apply BitVec.eq_of_toNat_eq
  split
  case isTrue hfits => rw [BitVec.toNat_ofNat, BitVec.toNat_add]; omega
  case isFalse hover => rw [BitVec.toNat_ofNat]; omega

/-- Settles O32: the one profile is changed, by `refill_credits`. -/
theorem periodExpiryRefills : Obligations.PeriodExpiryRefills := by
  intro w n s due hdefined hdue x
  have hrefilled : ({ s.profiles[n].refill with nextExpiry := some (due + s.profiles[n].period.toNat * Config.unitsPerMs) } : Profile) =
      { x with
        credits := if x.credits.toNat + x.amount.toNat ≤ x.capacity.toNat then x.credits + x.amount else x.capacity,
        nextExpiry := some (due + x.period.toNat * 4000) } := by
    rw [← refill_credits]
    rfl
  rw [exec, execPeriodExpiry]
  simp only [lapse_profiles, hdue, if_neg hdefined, reach_profiles, modifyAt]
  rw [hrefilled]

/-! ## Telegrams as bytes (R4, R203) -/

/-- The three kind bits, the mark bit and the reach bits of the third header byte are read back from it (R203). -/
theorem thirdByte_fields (k : BitVec 3) (m : Bool) (r : BitVec 4) :
    (k ++ BitVec.ofBool m ++ r).extractLsb' 5 3 = k ∧ (k ++ BitVec.ofBool m ++ r).getLsbD 4 = m ∧
      (k ++ BitVec.ofBool m ++ r).extractLsb' 0 4 = r := by
  revert k m r; decide

theorem tagByte_fields (t : Tag) : (0#2 ++ t).extractLsb' 6 2 = 0 ∧ (0#2 ++ t).extractLsb' 0 6 = t := by
  revert t; decide

@[simp] theorem kindOf_kindCode (k : Kind) : kindOf (kindCode k) = some k := by
  cases k <;> decide

@[simp] theorem halfBytes_length (x : Half) : (halfBytes x).length = 2 := rfl

theorem frame_length (t : Telegram) : t.frame.length = 7 + t.payload.length := by
  simp only [Telegram.frame, Telegram.header, headerBytes, List.length_append, List.length_cons, List.length_nil, halfBytes_length]
  omega

/-- The last two bytes of a telegram are the check word of the others (R4). -/
theorem checkWordRight_frame (t : Telegram) : (assembled t.frame).checkWordRight = true := by
  have hbody : t.frame.length - 2 = (t.header ++ t.payload).length := by
    rw [frame_length, List.length_append]
    simp only [Telegram.header, headerBytes, List.length_cons, List.length_nil]
    omega
  rw [checkWordRight_assembled, hbody]
  refine ⟨by rw [frame_length]; omega, ?_⟩
  rw [Telegram.frame, List.drop_left' rfl, List.take_left' rfl]

/-- Settles O13: the assembly after the telegram's bytes is `assembled` of them, whose last two are the check word of the others, and
whose header fields are read back bit by bit. -/
theorem telegramsRoundTrip : Obligations.TelegramsRoundTrip := by
  intro t hlength
  rw [pushAll_empty]
  refine ⟨checkWordRight_frame t, ?_⟩
  have hbyte : (byteOf t.payload.length).toNat = t.payload.length := by
    rw [byteOf_toNat]; omega
  have hstored : (assembled t.frame).stored = t.frame :=
    List.take_of_length_le (by rw [frame_length]; simp only [Config.assemblyCapacity]; omega)
  obtain ⟨hkind, hmark, hreach⟩ := thirdByte_fields (kindCode t.kind) t.mark t.reach
  obtain ⟨hhigh, htag⟩ := tagByte_fields t.tag
  rw [Assembly.telegram, hstored, assembled_length, frame_length]
  simp only [Telegram.frame, Telegram.header, headerBytes, List.cons_append, List.nil_append, hbyte, hkind, hmark, hreach, hhigh,
    htag, kindOf_kindCode, Config.maxPayload]
  rw [if_neg (by omega), if_neg (by simp), if_neg (by simp), List.take_left' rfl]

/-! ## Rule entries as bytes (R204) -/

/-- The first byte of an entry spelled by its fields. -/
def flagByte (inUse upward downward : Bool) (action : BitVec 2) (capture notice mark : Bool) : Byte :=
  BitVec.ofBool inUse ++ BitVec.ofBool upward ++ BitVec.ofBool downward ++ action ++ BitVec.ofBool capture ++
    BitVec.ofBool notice ++ BitVec.ofBool mark

theorem flagByte_fields (inUse upward downward : Bool) (action : BitVec 2) (capture notice mark : Bool) :
    let x := flagByte inUse upward downward action capture notice mark
    x.getLsbD 7 = inUse ∧ x.getLsbD 6 = upward ∧ x.getLsbD 5 = downward ∧ x.extractLsb' 3 2 = action ∧ x.getLsbD 2 = capture ∧
      x.getLsbD 1 = notice ∧ x.getLsbD 0 = mark := by
  revert inUse upward downward action capture notice mark; decide

theorem flagByte_of_fields (x : Byte) :
    flagByte (x.getLsbD 7) (x.getLsbD 6) (x.getLsbD 5) (x.extractLsb' 3 2) (x.getLsbD 2) (x.getLsbD 1) (x.getLsbD 0) = x := by
  revert x; decide

theorem termsByte_fields (allowance timeoutClass : BitVec 2) :
    (0#4 ++ allowance ++ timeoutClass).extractLsb' 4 4 = 0 ∧ (0#4 ++ allowance ++ timeoutClass).extractLsb' 2 2 = allowance ∧
      (0#4 ++ allowance ++ timeoutClass).extractLsb' 0 2 = timeoutClass := by
  revert allowance timeoutClass; decide

theorem termsByte_of_fields (x : Byte) (h : x.extractLsb' 4 4 = 0) : 0#4 ++ x.extractLsb' 2 2 ++ x.extractLsb' 0 2 = x := by
  revert x; decide

theorem kindsByte_of_fields (x : Byte) : 0#2 ++ x.extractLsb' 0 6 = x &&& 0x3F := by
  revert x; decide

@[simp] theorem actionOf_actionCode (a : Action) : actionOf (actionCode a) = some a := by
  cases a <;> decide

theorem actionCode_of_actionOf {x : BitVec 2} {a : Action} (h : actionOf x = some a) : actionCode a = x := by
  revert x a; decide

/-- A group's byte, or FFh for absent, is read back (R204, R206). -/
@[simp] theorem groupOf_groupCode (g : Option Group) : groupOf (groupCode g) = some g := by
  revert g; decide

theorem groupCode_of_groupOf {x : Byte} {g : Option Group} (h : groupOf x = some g) : groupCode g = x := by
  unfold groupOf at h
  split at h
  case isTrue hlt =>
    cases h
    simp [groupCode, byteOf]
  case isFalse =>
    split at h
    case isTrue habsent => cases h; exact habsent.symm
    case isFalse => cases h

/-- A profile's byte, or FFh for absent (R204). -/
def profileCode (n : Option (Fin 16)) : Byte :=
  match n with
  | none => 0xFF
  | some n => byteOf n.val

@[simp] theorem profileOf_profileCode (n : Option (Fin 16)) : profileOf (profileCode n) = some n := by
  revert n; decide

theorem profileCode_of_profileOf {x : Byte} {n : Option (Fin 16)} (h : profileOf x = some n) : profileCode n = x := by
  unfold profileOf at h
  split at h
  case isTrue hlt =>
    cases h
    simp [profileCode, byteOf]
  case isFalse =>
    split at h
    case isTrue habsent => cases h; exact habsent.symm
    case isFalse => cases h

/-- The nine bytes of an entry, by its fields (R204). -/
theorem encode_eq (e : RuleEntry) :
    e.encode =
      [flagByte e.inUse e.upward e.downward (actionCode e.action) e.capture e.notice (decide (e.overRate = .mark)), e.sourceLow,
       e.sourceHigh, e.destLow, e.destHigh, 0#2 ++ e.kinds, groupCode e.group, profileCode e.profile,
       0#4 ++ e.allowance ++ e.timeoutClass] := by
  unfold RuleEntry.encode profileCode
  cases e.profile <;> rfl

theorem sourceByteOk_eq (x : Byte) : sourceByteOk x = stationOk x := rfl

theorem destByteOk_iff (x : Byte) : destByteOk x = true ↔ stationOk x = true ∨ x = 255 := by
  have h255 : x.toNat = 255 ↔ x = 255 := by rw [← BitVec.toNat_inj]; rfl
  simp only [destByteOk, Bool.or_eq_true, decide_eq_true_eq, h255]
  rfl

/-- An entry in range is decoded from its bytes (R86, R204). -/
theorem decode_encode (e : RuleEntry) (h : EntryOk e) :
    RuleEntry.decode (flagByte e.inUse e.upward e.downward (actionCode e.action) e.capture e.notice (decide (e.overRate = .mark)))
      e.sourceLow e.sourceHigh e.destLow e.destHigh (0#2 ++ e.kinds) (groupCode e.group) (profileCode e.profile)
      (0#4 ++ e.allowance ++ e.timeoutClass) = .ok e := by
  obtain ⟨hsl, hsh, hdl, hdh⟩ := h
  obtain ⟨h7, h6, h5, haction, h2, h1, h0⟩ := flagByte_fields e.inUse e.upward e.downward (actionCode e.action) e.capture e.notice
    (decide (e.overRate = .mark))
  obtain ⟨hhigh, hallowance, hclass⟩ := termsByte_fields e.allowance e.timeoutClass
  have hkinds := (tagByte_fields e.kinds).2
  have hsl' : sourceByteOk e.sourceLow = true := hsl
  have hsh' : sourceByteOk e.sourceHigh = true := hsh
  have hmark : (if decide (e.overRate = .mark) = true then OverRate.mark else .drop) = e.overRate := by
    cases e.overRate <;> rfl
  simp only [RuleEntry.decode, haction, actionOf_actionCode, hsl', hsh', (destByteOk_iff _).2 hdl, (destByteOk_iff _).2 hdh,
    groupOf_groupCode, profileOf_profileCode, hhigh, h7, h6, h5, h2, h1, h0, hallowance, hclass, hkinds, hmark]
  simp

/-- Nine bytes that decode to an entry are that entry's, but for the two high bits of the kind set (R204). -/
theorem encode_decode {b0 b1 b2 b3 b4 b5 b6 b7 b8 : Byte} {e : RuleEntry}
    (h : RuleEntry.decode b0 b1 b2 b3 b4 b5 b6 b7 b8 = .ok e) :
    EntryOk e ∧ e.encode = [b0, b1, b2, b3, b4, b5 &&& 0x3F, b6, b7, b8] := by
  unfold RuleEntry.decode at h
  split at h
  · cases h
  rename_i action haction
  split at h
  · cases h
  rename_i h1
  split at h
  · cases h
  rename_i h2
  split at h
  · cases h
  rename_i h3
  split at h
  · cases h
  rename_i h4
  split at h
  · cases h
  rename_i group hgroup
  split at h
  · cases h
  rename_i profile hprofile
  split at h
  · cases h
  rename_i h8
  cases h
  have hmark : decide ((if b0.getLsbD 0 then OverRate.mark else .drop) = .mark) = b0.getLsbD 0 := by
    cases b0.getLsbD 0 <;> rfl
  refine ⟨⟨by simpa [sourceByteOk_eq] using h1, by simpa [sourceByteOk_eq] using h2, (destByteOk_iff _).1 (by simpa using h3), (destByteOk_iff _).1 (by simpa using h4)⟩, ?_⟩
  rw [encode_eq]
  simp only [hmark, actionCode_of_actionOf haction, flagByte_of_fields, kindsByte_of_fields, groupCode_of_groupOf hgroup,
    profileCode_of_profileOf hprofile, termsByte_of_fields b8 (by simpa using h8)]

/-- Settles O14. -/
theorem ruleEntriesRoundTrip : Obligations.RuleEntriesRoundTrip := by
  refine ⟨fun e hok => ?_, fun b0 b1 b2 b3 b4 b5 b6 b7 b8 e h => encode_decode h⟩
  exact ⟨_, _, _, _, _, _, _, _, _, encode_eq e, decode_encode e hok⟩

/-- The check word of the nine digits, byte by byte (R4). -/
theorem crcOf_digits : crcOf [0x31, 0x32, 0x33, 0x34, 0x35, 0x36, 0x37, 0x38, 0x39] = 0x29B1 := by
  simp only [crcOf, crcInit, List.foldl_cons, List.foldl_nil,
    show crcByte 0xFFFF 0x31 = 0xC782 by decide,
    show crcByte 0xC782 0x32 = 0x3DBA by decide,
    show crcByte 0x3DBA 0x33 = 0x5BCE by decide,
    show crcByte 0x5BCE 0x34 = 0x5349 by decide,
    show crcByte 0x5349 0x35 = 0x4560 by decide,
    show crcByte 0x4560 0x36 = 0x2EF4 by decide,
    show crcByte 0x2EF4 0x37 = 0x7718 by decide,
    show crcByte 0x7718 0x38 = 0xA12B by decide,
    show crcByte 0xA12B 0x39 = 0x29B1 by decide]

/-- Settles O15: the spec's examples, evaluated. -/
theorem sampleEncodings : Obligations.SampleEncodings :=
  ⟨crcOf_digits, by rfl, by rfl, by rfl⟩

end Sys2Proof.Proofs
end

section
/-! Intake (chapter 1): the discards of the last three checks (O19), and a frame end that carries an order (O20). -/

namespace Sys2Proof.Proofs

open Sys2Proof.Machine Sys2Proof.Laws Sys2Proof.Safety

theorem illAddressed_of_not_wellAddressed {station : Byte} {t : Telegram} (h : ¬WellAddressed station t) :
    illAddressed station t = true := by
  cases hill : illAddressed station t with
  | true => rfl
  | false => exact absurd ((illAddressed_eq_false station t).1 hill) h

/-- Settles O19: each clause is one branch of `intakeTelegram`. -/
theorem intakeDiscardsWithOneCount : Obligations.IntakeDiscardsWithOneCount := by
  intro w p rest s t hr hframed counted
  have hstation : (dropAssembly p (lapse w s)).station = s.station := by simp [dropAssembly]
  have hgate : (dropAssembly p (lapse w s)).gate = s.gate := by simp [dropAssembly]
  have hcount (k : PortCounter) : bump p k (dropAssembly p (lapse w s)) = counted k := bump_dropAssembly p k _
  rw [frameEnd_framed w p rest s t hr hframed]
  unfold intakeTelegram
  rw [hstation, hgate, hcount .illAddressed, hcount .reachExhausted, hcount .discardedWhileHalted]
  refine ⟨fun hill => ?_, fun hwell hdest hreach => ?_, fun hwell hdest hreach hhalted => ?_⟩
  · by_cases hwell : WellAddressed s.station t
    · obtain ⟨hdest, hkind⟩ := hill.resolve_left (not_not_intro hwell)
      rw [(illAddressed_eq_false ..).2 hwell, if_neg Bool.false_ne_true, if_pos hdest, if_neg hkind]
    · rw [illAddressed_of_not_wellAddressed hwell, if_pos rfl]
  · rw [(illAddressed_eq_false ..).2 hwell, if_neg Bool.false_ne_true, if_neg hdest, if_pos hreach]
  · rw [(illAddressed_eq_false ..).2 hwell, if_neg Bool.false_ne_true, if_neg hdest, if_neg hreach, if_pos hhalted]

/-- A frame end that carries an ORDER to the gate is the frame end that delivers its payload, at a port that receives and at one
that does not (R8, R142). -/
theorem frameEnd_order (w : Since) (p : Port) (rest : List Byte) (s : State) (t : Telegram) (hframed : Framed p rest s t)
    (hwell : WellAddressed s.station t) (hdest : t.dest = s.station) (hkind : t.kind = .order) :
    exec (.frameEnd w p rest) s = .next (orderEnd p { source := t.source, tag := t.tag } t.payload (lapse w s)) := by
  cases hr : receiving p s with
  | true =>
    have hheard : Heard p { source := t.source, tag := t.tag } s := by
      obtain ⟨hlow, hhigh, hsource, -⟩ := hwell
      exact ⟨hr, by simp [stationOk, hlow, hhigh], hsource⟩
    have hstation : (dropAssembly p (lapse w s)).station = s.station := by simp [dropAssembly]
    rw [orderEnd_heard w p _ _ s hheard, frameEnd_framed w p rest s t hr hframed, intakeTelegram, hstation,
      (illAddressed_eq_false ..).2 hwell, if_neg Bool.false_ne_true, if_pos hdest, if_pos hkind]
  | false =>
    obtain ⟨a, ha, -⟩ := hframed
    have hlost : lostNow p (lapse w s) = none := by
      rw [Option.eq_none_iff_forall_ne_some]
      intro b hb
      obtain ⟨-, hnone, -⟩ := (lostNow_eq_some w p s b).1 hb
      rw [ha] at hnone
      cases hnone
    rw [frameEnd_quiet w p rest s (.inl hr), hlost, orderEnd, receiving_lapse, hr]
    rfl

/-- Settles O20: both ways come to `orderEnd` with the telegram's payload. -/
theorem frameEndDeliversAnOrder : Obligations.FrameEndDeliversAnOrder := by
  intro w p rest s t hframed hwell hdest hkind h
  have hend := frameEnd_order w p rest s t hframed hwell hdest hkind
  refine ⟨fun k args hpayload => ?_, fun _ => hend⟩
  rw [hend, exec_orderInstr, hpayload]
  rfl

end Sys2Proof.Proofs
end

section
/-! The forward decision (chapters 2 to 4): the treatment as an entry, the discarding steps and step 7, each said once. -/

namespace Sys2Proof.Proofs

open Sys2Proof.Machine Sys2Proof.Laws Sys2Proof.Safety

/-! ## Treatments -/

/-- The treatment that the forward decision goes by is that of entry `e` at `i`, for telegram `t` from `p` (R31). -/
structure TreatsAs (tr : Treatment) (p : Port) (t : Telegram) (i : RuleIndex) (e : RuleEntry) : Prop where
  action : tr.action = e.action
  group : tr.group = e.group
  rate : tr.rate = e.profile.map fun n => (n, e.overRate)
  untracked : tracked e t = false → tr.track = none
  terms : tracked e t = true →
    tr.track = some (i, { timeoutClass := e.timeoutClass, allowance := e.allowance, notice := e.notice })
  capture : ∀ outcome u, captureFor p t tr outcome u = captured p i e t outcome u

theorem tracked_iff (e : RuleEntry) (t : Telegram) :
    tracked e t = true ↔ e.action = .track ∧ (t.kind = .poll ∨ t.kind = .reply) := by
  simp [tracked]

theorem treatsAs_rule (p : Port) (t : Telegram) (i : RuleIndex) (e : RuleEntry) : TreatsAs (ruleTreatment i e t.kind) p t i e where
  action := rfl
  group := rfl
  rate := rfl
  untracked h := if_neg fun hasked => by rw [(tracked_iff e t).2 hasked] at h; cases h
  terms h := if_pos ((tracked_iff e t).1 h)
  capture outcome u := by
    simp only [captureFor, ruleTreatment, captured]
    cases e.capture <;> rfl

/-- A direction default never asks for the tracker (R30). -/
theorem defaultEntry_not_track (x : Settings) (d : Direction) : (defaultEntry x d).action ≠ .track := by
  have hpassOrBlock (a : DefaultAction) : a.action ≠ .track := by cases a <;> decide
  cases d
  · exact hpassOrBlock x.actionDown
  · exact hpassOrBlock x.actionUp

theorem treatsAs_default (x : Settings) (p : Port) (t : Telegram) (i : RuleIndex) :
    TreatsAs (defaultTreatment x p.direction) p t i (defaultEntry x p.direction) where
  action := rfl
  group := rfl
  rate := rfl
  untracked _ := rfl
  terms h := absurd ((tracked_iff _ t).1 h).1 (defaultEntry_not_track x p.direction)
  capture _ _ := rfl

/-- The Classifier takes the forward decision under the treatment that the lookup finds (R29 to R31). -/
theorem classify_treated {u : State} {p : Port} {t : Telegram} {i : RuleIndex} {e : RuleEntry} (h : Treated u p t i e) :
    ∃ tr, TreatsAs tr p t i e ∧ classify p t u = forwardDecision p t tr u := by
  rcases h with hrule | ⟨hpassed, rfl⟩
  · exact ⟨_, treatsAs_rule p t i e, by rw [classify, (lookup_rule_iff ..).2 hrule]⟩
  · exact ⟨_, treatsAs_default u.settings p t i, by rw [classify, lookup_byDefault _ _ _ hpassed]⟩

theorem received_gate {w : Since} {p : Port} {rest : List Byte} {s : State} {t : Telegram} (h : Crosses w p rest s t) :
    (received w p s).gate = .serving := by
  obtain ⟨-, hserving, -⟩ := h
  simpa [received] using hserving

theorem received_pet (w : Since) (p : Port) (s : State) : (received w p s).pet = s.pet := by simp [received]

/-! ## The discarding steps (R32 to R38, R40) -/

/-- The tracker's state at a discard: a late reply has taken its key from the Lapsed Ring (R56). -/
def refusing (x : Discard) (t : Telegram) (u : State) : State :=
  if x = .late then { u with ring := u.ring.filter fun k => decide (k ≠ replyKey t) } else u

theorem refusing_tallies (x : Discard) (t : Telegram) (u : State) : (refusing x t u).tallies = u.tallies := by
  unfold refusing; split <;> rfl

theorem refusing_gate (x : Discard) (t : Telegram) (u : State) : (refusing x t u).gate = u.gate := by
  unfold refusing; split <;> rfl

theorem captured_gate (p : Port) (i : RuleIndex) (e : RuleEntry) (t : Telegram) (outcome : CaptureOutcome) (u : State) :
    (captured p i e t outcome u).gate = u.gate := by
  unfold captured
  split_ifs <;> rfl

/-- A discard over a sound group (R40, R41). -/
theorem discardTelegram_sound {tr : Treatment} {p : Port} {t : Telegram} {i : RuleIndex} {e : RuleEntry} (htr : TreatsAs tr p t i e)
    (x : Discard) {u : State} (hsound : SoundGroup e.group u) :
    discardTelegram p t tr x u = discarded p i e t x (refusing x t u) := by
  have htally := tally1_sound e.group x.counter (Course.of (refusing x t u)) rfl
    (fun g hg => by rw [show (Course.of (refusing x t u)).state.tallies = u.tallies from refusing_tallies x t u]; exact hsound g hg)
  change Course.finish (Course.map (captureFor p t tr x.outcome) ((Course.of (refusing x t u)).tally1 tr.group x.counter)) = _
  rw [htr.group, htally]
  exact htr.capture x.outcome _

/-- A discard whose group has a wrong check code: the capture is made, and the gate halts (R116). -/
theorem discardTelegram_faulty {tr : Treatment} {p : Port} {t : Telegram} {i : RuleIndex} {e : RuleEntry}
    (htr : TreatsAs tr p t i e) (x : Discard) {u : State} {g : Group} (hgate : u.gate = .serving) (hgroup : e.group = some g)
    (hwrong : u.tallies[g].sound = false) :
    Halts (.tallyStore g) (captured p i e t x.outcome (refusing x t u)) (discardTelegram p t tr x u) := by
  have htally := tally_corrupt g [(x.counter, 1)] (Course.of (refusing x t u)) rfl
    (by rw [show (Course.of (refusing x t u)).state.tallies = u.tallies from refusing_tallies x t u]; exact hwrong)
  change Halts _ _ (Course.finish (Course.map (captureFor p t tr x.outcome) ((Course.of (refusing x t u)).tally1 tr.group x.counter)))
  rw [htr.group, hgroup, Course.tally1, htally]
  simp only [Course.map, Course.finish, htr.capture]
  exact haltOn_halts _ _ ((captured_gate ..).trans ((refusing_gate ..).trans hgate))

/-! ## Step 5: the rate test and the charge (R37, R72, R76) -/

theorem within_absent {e : RuleEntry} (t : Telegram) (u : State) (h : e.profile = none) : within e t u = true := by
  simp [within, h]

theorem within_profile {e : RuleEntry} {n : Fin 16} (t : Telegram) (u : State) (h : e.profile = some n) :
    within e t u = decide (costOf u.profiles[n].mode t.payload.length ≤ u.profiles[n].credits.toNat) := by
  simp only [within, h]
  cases u.profiles[n].mode <;> rfl

theorem charged_over {e : RuleEntry} {t : Telegram} {u : State} (h : within e t u = false) : charged e t u = u := by
  unfold charged
  split
  · rfl
  · rw [h]; rfl

theorem charged_within {e : RuleEntry} {n : Fin 16} {t : Telegram} {u : State} (hprofile : e.profile = some n)
    (h : within e t u = true) : charge (some (n, costOf u.profiles[n].mode t.payload.length)) u = charged e t u := by
  have hcost := h
  rw [within_profile t u hprofile, decide_eq_true_eq] at hcost
  have hless (cost : Nat) (hle : cost ≤ u.profiles[n].credits.toNat) :
      u.profiles[n].credits - BitVec.ofNat 8 cost = BitVec.ofNat 8 (u.profiles[n].credits.toNat - cost) := by
    have := u.profiles[n].credits.isLt
    apply BitVec.eq_of_toNat_eq
    rw [BitVec.toNat_sub, BitVec.toNat_ofNat, BitVec.toNat_ofNat]
    omega
  simp only [charge, charged, hprofile, h, if_true, modifyAt, hless _ hcost]
  cases u.profiles[n].mode <;> rfl

theorem charged_fields (e : RuleEntry) (t : Telegram) (u : State) : charged e t u = { u with profiles := (charged e t u).profiles } := by
  unfold charged
  split
  · rfl
  · split <;> rfl

/-- Step 5 lets pass a telegram within rate, to be charged, and marks one over rate under MARK (R37). -/
theorem stepFive_passes {tr : Treatment} {p : Port} {t : Telegram} {i : RuleIndex} {e : RuleEntry} (htr : TreatsAs tr p t i e)
    {u : State} (h : within e t u = true ∨ e.overRate = .mark) :
    ∃ due, stepFive p t tr u = stepSix p t tr due (!within e t u) u ∧ charge due u = charged e t u := by
  unfold stepFive
  cases hprofile : e.profile with
  | none =>
    have hcharged : charged e t u = u := by simp [charged, hprofile]
    exact ⟨none, by rw [htr.rate, hprofile, within_absent t u hprofile]; rfl, hcharged.symm⟩
  | some n =>
    rw [htr.rate, hprofile]
    simp only [Option.map_some]
    cases hwithin : within e t u with
    | true =>
      have hcost := hwithin
      rw [within_profile t u hprofile, decide_eq_true_eq] at hcost
      exact ⟨_, by rw [if_pos hcost]; rfl, charged_within hprofile hwithin⟩
    | false =>
      have hcost := hwithin
      rw [within_profile t u hprofile, decide_eq_false_iff_not] at hcost
      refine ⟨none, ?_, (charged_over hwithin).symm⟩
      rw [if_neg hcost, h.resolve_left (by rw [hwithin]; exact Bool.false_ne_true)]
      rfl

/-- Step 5 discards a telegram over rate under DROP (R37). -/
theorem stepFive_drops {tr : Treatment} {p : Port} {t : Telegram} {i : RuleIndex} {e : RuleEntry} (htr : TreatsAs tr p t i e)
    {u : State} (hover : within e t u = false) (hdrop : e.overRate = .drop) : stepFive p t tr u = .discard .overRateDropped := by
  cases hprofile : e.profile with
  | none => rw [within_absent t u hprofile] at hover; cases hover
  | some n =>
    rw [within_profile t u hprofile, decide_eq_false_iff_not] at hover
    simp only [stepFive, htr.rate, hprofile, Option.map_some, if_neg hover, hdrop]

/-! ## Step 6: the tracker's answer (R38, R50, R51, R56) -/

theorem corruptEntry_none {u : State} (h : SoundPet u) : corruptEntry u = none :=
  List.find?_eq_none.2 fun x hx => by simp [h x hx]

/-- An untracked telegram passes step 6 (R38). -/
theorem stepSix_untracked {tr : Treatment} {p : Port} {t : Telegram} {i : RuleIndex} {e : RuleEntry} (htr : TreatsAs tr p t i e)
    (huntracked : tracked e t = false) (due : Option (Fin 16 × Nat)) (marked : Bool) (u : State) :
    stepSix p t tr due marked u = .enqueue due marked none := by
  simp only [stepSix, htr.untracked huntracked]

/-- How the tracker's answer ends step 6 (R38). -/
def TrackAnswer.decision (due : Option (Fin 16 × Nat)) (marked : Bool) : TrackAnswer → Decision
  | .act x => .enqueue due marked (some x)
  | .refuse x => .discard x
  | .corrupt slot => .corrupt slot

theorem stepSix_tracked {tr : Treatment} {p : Port} {t : Telegram} {i : RuleIndex} {e : RuleEntry} (htr : TreatsAs tr p t i e)
    (htracked : tracked e t = true) (due : Option (Fin 16 × Nat)) (marked : Bool) (u : State) :
    stepSix p t tr due marked u = TrackAnswer.decision due marked
      (trackAnswer p t i { timeoutClass := e.timeoutClass, allowance := e.allowance, notice := e.notice } u) := by
  simp only [stepSix, htr.terms htracked]
  split <;> simp_all [TrackAnswer.decision]

theorem trackAnswer_poll {u : State} (hsound : SoundPet u) (p : Port) {t : Telegram} (hkind : t.kind = .poll) (i : RuleIndex)
    (terms : TrackTerms) : trackAnswer p t i terms u = pollAnswer p t i terms u := by
  rw [trackAnswer, corruptEntry_none hsound]
  exact if_pos hkind

theorem trackAnswer_reply {u : State} (hsound : SoundPet u) (p : Port) {t : Telegram} (hkind : t.kind = .reply) (i : RuleIndex)
    (terms : TrackTerms) : trackAnswer p t i terms u = replyAnswer p t u := by
  rw [trackAnswer, corruptEntry_none hsound]
  exact if_neg (by rw [hkind]; decide)

/-- The open exchange that a POLL repeats is the one of its key (R43, R51). -/
theorem pollAnswer_repeats {u : State} (hnodup : (u.pet.map PetEntry.key).Nodup) {x : PetEntry} (hx : x ∈ u.pet) {t : Telegram}
    (hkey : x.key = pollKey t) (p : Port) (i : RuleIndex) (terms : TrackTerms) :
    pollAnswer p t i terms u = if x.port = p ∧ x.used < x.allowance then .act (.retry x) else .refuse .retryRefused := by
  unfold pollAnswer
  cases hfound : u.pet.find? fun y => decide (y.key = pollKey t) with
  | none => exact absurd hkey (by simpa using List.find?_eq_none.1 hfound x hx)
  | some y =>
    have hykey : y.key = pollKey t := by simpa using List.find?_some hfound
    rw [entry_of_key hnodup hx (List.mem_of_find?_eq_some hfound) (hykey.trans hkey.symm)]

/-- A POLL whose key is not open asks for room in the table and for the requester (R50). -/
theorem pollAnswer_new {u : State} {t : Telegram} (hnew : ∀ x ∈ u.pet, x.key ≠ pollKey t) (p : Port) (i : RuleIndex)
    (terms : TrackTerms) :
    pollAnswer p t i terms u =
      if 64 ≤ u.pet.length then .refuse .tableFull
      else if u.settings.requesterLimit.toNat ≤ (u.pet.countP fun x => decide (x.key.requester = t.source)) then
        .refuse .requesterLimit
      else .act (.openNew (pollKey t) i terms) := by
  have hnone : (u.pet.find? fun x => decide (x.key = pollKey t)) = none :=
    List.find?_eq_none.2 fun x hx => by simpa using hnew x hx
  rw [pollAnswer, hnone]
  rfl

/-- A REPLY closes the open exchange of its key whose requester is on the other side (R56). -/
theorem replyAnswer_closes {u : State} (hnodup : (u.pet.map PetEntry.key).Nodup) {x : PetEntry} (hx : x ∈ u.pet) {t : Telegram}
    {p : Port} (hkey : x.key = replyKey t) (hport : x.port = p.other) : replyAnswer p t u = .act (.close x) := by
  unfold replyAnswer
  cases hfound : u.pet.find? fun y => decide (y.key = replyKey t) && decide (y.port = p.other) with
  | none => exact absurd (List.find?_eq_none.1 hfound x hx) (by simp [hkey, hport])
  | some y =>
    have hy : y.key = replyKey t ∧ y.port = p.other := by simpa using List.find?_some hfound
    rw [entry_of_key hnodup hx (List.mem_of_find?_eq_some hfound) (hy.1.trans hkey.symm)]

/-- A REPLY that answers no open exchange is late or unsolicited (R56). -/
theorem replyAnswer_refuses {u : State} {t : Telegram} {p : Port}
    (hnone : ∀ y ∈ u.pet, ¬(y.key = replyKey t ∧ y.port = p.other)) :
    replyAnswer p t u = if replyKey t ∈ u.ring then .refuse .late else .refuse .unsolicited := by
  have hfind : (u.pet.find? fun y => decide (y.key = replyKey t) && decide (y.port = p.other)) = none :=
    List.find?_eq_none.2 fun y hy => by simpa using hnone y hy
  rw [replyAnswer, hfind]

/-! ## Steps 1 to 6 -/

/-- A telegram that is not blocked, and that steps 2 to 4 let pass, comes to step 5 (R33 to R36). -/
theorem forwardSteps_clear {tr : Treatment} {p : Port} {t : Telegram} {i : RuleIndex} {e : RuleEntry} (htr : TreatsAs tr p t i e)
    {u : State} (haction : e.action ≠ .block) (hclear : Clear p u) : forwardSteps p t tr u = stepFive p t tr u := by
  obtain ⟨hhold, hline, hroom⟩ := hclear
  rw [forwardSteps, htr.action, if_neg haction, hhold, if_neg Bool.false_ne_true, hline, if_neg (by decide),
    if_neg (by simpa [Config.forwardCapacity] using hroom)]

/-- A telegram that reaches the tracker and is tracked has its decision from the tracker's answer (R37, R38). -/
theorem forwardSteps_asks {tr : Treatment} {p : Port} {t : Telegram} {i : RuleIndex} {e : RuleEntry} (htr : TreatsAs tr p t i e)
    {u : State} (hreaches : ReachesTracker p e t u) :
    ∃ due, forwardSteps p t tr u = stepSix p t tr due (!within e t u) u ∧ charge due u = charged e t u := by
  obtain ⟨haction, hclear, hrate⟩ := hreaches
  rw [forwardSteps_clear htr haction hclear]
  exact stepFive_passes htr hrate

/-- What the tracker refuses is discarded (R38). -/
theorem forwardSteps_refused {tr : Treatment} {p : Port} {t : Telegram} {i : RuleIndex} {e : RuleEntry} (htr : TreatsAs tr p t i e)
    {u : State} {x : Discard} (hreaches : ReachesTracker p e t u) (htracked : tracked e t = true)
    (hanswer : ∀ terms, trackAnswer p t i terms u = .refuse x) : forwardSteps p t tr u = .discard x := by
  obtain ⟨due, hsteps, -⟩ := forwardSteps_asks htr hreaches
  rw [hsteps, stepSix_tracked htr htracked, hanswer]
  rfl

/-- Steps 1 to 6 end at the discarding step that `EndsAt` names (R33 to R38). -/
theorem forwardSteps_endsAt {tr : Treatment} {p : Port} {t : Telegram} {i : RuleIndex} {e : RuleEntry} (htr : TreatsAs tr p t i e)
    {u : State} {x : Discard} (hkeys : x = .retryRefused → (u.pet.map PetEntry.key).Nodup) (h : EndsAt p e t u x) :
    forwardSteps p t tr u = .discard x := by
  cases x with
  | blocked =>
    have hblock : e.action = .block := h
    rw [forwardSteps, htr.action, if_pos hblock]
  | held =>
    obtain ⟨haction, hhold⟩ := h
    rw [forwardSteps, htr.action, if_neg haction, if_pos hhold]
  | lineLost =>
    obtain ⟨haction, hhold, hline⟩ := h
    rw [forwardSteps, htr.action, if_neg haction, hhold, if_neg Bool.false_ne_true, if_pos hline]
  | queueFull =>
    obtain ⟨haction, hhold, hline, hfull⟩ := h
    have hcapacity : Config.forwardCapacity ≤ (u.port p.other).forwardQ.length := hfull
    rw [forwardSteps, htr.action, if_neg haction, hhold, if_neg Bool.false_ne_true, hline, if_neg (by decide), if_pos hcapacity]
  | overRateDropped =>
    obtain ⟨haction, hclear, hover, hdrop⟩ := h
    rw [forwardSteps_clear htr haction hclear, stepFive_drops htr hover hdrop]
  | retryRefused =>
    obtain ⟨⟨hreaches, haction, hkind, hsound⟩, y, hy, hkey, hrefused⟩ := h
    refine forwardSteps_refused htr hreaches ((tracked_iff e t).2 ⟨haction, .inl hkind⟩) fun terms => ?_
    rw [trackAnswer_poll hsound p hkind, pollAnswer_repeats (hkeys rfl) hy hkey]
    refine if_neg fun ⟨hport, hless⟩ => ?_
    rcases hrefused with hother | hspent
    · exact hother hport
    · rw [hspent] at hless
      exact absurd hless (BitVec.lt_irrefl _)
  | tableFull =>
    obtain ⟨⟨hreaches, haction, hkind, hsound⟩, hnew, hfull⟩ := h
    refine forwardSteps_refused htr hreaches ((tracked_iff e t).2 ⟨haction, .inl hkind⟩) fun terms => ?_
    rw [trackAnswer_poll hsound p hkind, pollAnswer_new hnew, if_pos hfull.ge]
  | requesterLimit =>
    obtain ⟨⟨hreaches, haction, hkind, hsound⟩, hnew, hroom, hlimit⟩ := h
    refine forwardSteps_refused htr hreaches ((tracked_iff e t).2 ⟨haction, .inl hkind⟩) fun terms => ?_
    rw [trackAnswer_poll hsound p hkind, pollAnswer_new hnew, if_neg (by omega), if_pos hlimit]
  | late =>
    obtain ⟨⟨hreaches, haction, hkind, hsound⟩, hnone, hlapsed⟩ := h
    refine forwardSteps_refused htr hreaches ((tracked_iff e t).2 ⟨haction, .inr hkind⟩) fun terms => ?_
    rw [trackAnswer_reply hsound p hkind, replyAnswer_refuses hnone, if_pos hlapsed]
  | unsolicited =>
    obtain ⟨⟨hreaches, haction, hkind, hsound⟩, hnone, hunknown⟩ := h
    refine forwardSteps_refused htr hreaches ((tracked_iff e t).2 ⟨haction, .inr hkind⟩) fun terms => ?_
    rw [trackAnswer_reply hsound p hkind, replyAnswer_refuses hnone, if_neg hunknown]

/-- A frame end whose telegram a discarding step ends, its group sound (R40, R41). -/
theorem crosses_discarded {w : Since} {p : Port} {rest : List Byte} {s : State} {t : Telegram} {i : RuleIndex} {e : RuleEntry}
    {x : Discard} (hcrosses : Crosses w p rest s t) (htreated : Treated (received w p s) p t i e)
    (hsound : SoundGroup e.group (received w p s)) (hkeys : x = .retryRefused → ((received w p s).pet.map PetEntry.key).Nodup)
    (h : EndsAt p e t (received w p s) x) :
    exec (.frameEnd w p rest) s = .next (discarded p i e t x (refusing x t (received w p s))) := by
  obtain ⟨tr, htr, hclassify⟩ := classify_treated htreated
  rw [crosses_classified w p rest s t hcrosses, hclassify, forwardDecision, forwardSteps_endsAt htr hkeys h]
  simp only [discardTelegram_sound htr x hsound]

/-- Settles O21: each clause is one `EndsAt`. -/
theorem discardingStepsOneToFour : Obligations.DiscardingStepsOneToFour := by
  intro w p rest s t i e hcrosses u htreated hsound
  have ends {x : Discard} (hx : x ≠ .retryRefused) (h : EndsAt p e t u x) :=
    crosses_discarded hcrosses htreated hsound (fun hr => absurd hr hx) h
  refine ⟨fun hblock => ?_, fun hpass hhold => ?_, fun hpass hfree hdown => ?_, fun hpass hfree hup hfull => ?_⟩
  · exact ends (x := .blocked) (by decide) hblock
  · exact ends (x := .held) (by decide) ⟨hpass, hhold⟩
  · exact ends (x := .lineLost) (by decide) ⟨hpass, hfree, hdown⟩
  · exact ends (x := .queueFull) (by decide) ⟨hpass, hfree, hup, hfull⟩

theorem received_keys {w : Since} {p : Port} {s : State} (h : TrackerOk s) : ((received w p s).pet.map PetEntry.key).Nodup := by
  obtain ⟨hkeys, -⟩ := h
  rwa [received_pet]

/-- Settles O26: each refusal is one `EndsAt`. -/
theorem trackerRefusals : Obligations.TrackerRefusals := by
  intro w p rest s t i e hok hcrosses u asked answered result htreated haction hclear hrate hgroup hsound
  have hreaches : ReachesTracker p e t u := ⟨by rw [haction]; decide, hclear, hrate.imp_right And.left⟩
  have ends {x : Discard} (h : EndsAt p e t u x) := crosses_discarded hcrosses htreated hgroup (fun _ => received_keys hok) h
  refine ⟨fun hkind x hx hkey hrefused => ?_, fun hkind hnew hfull => ?_, fun hkind hnew hroom hlimit => ?_,
    fun hkind hnone hlapsed => ?_, fun hkind hnone hunknown => ?_⟩
  · exact ends (x := .retryRefused) ⟨⟨hreaches, haction, hkind, hsound⟩, x, hx, hkey, hrefused⟩
  · exact ends (x := .tableFull) ⟨⟨hreaches, haction, hkind, hsound⟩, hnew, hfull⟩
  · exact ends (x := .requesterLimit) ⟨⟨hreaches, haction, hkind, hsound⟩, hnew, hroom, hlimit⟩
  · exact ends (x := .late) ⟨⟨hreaches, haction, hkind, hsound⟩, hnone, hlapsed⟩
  · exact ends (x := .unsolicited) ⟨⟨hreaches, haction, hkind, hsound⟩, hnone, hunknown⟩

end Sys2Proof.Proofs
end

section
/-! Step 7 of the forward decision, and the forward decision's faults (O22 to O25, O27). -/

namespace Sys2Proof.Proofs

open Sys2Proof.Machine Sys2Proof.Laws Sys2Proof.Safety

/-! ## Step 7: what is carried out (R39, R52, R53, R57) -/

/-- The tracker's tally, if it makes one (R69). -/
def trackerTally (tally : Option (Option Group × Counter)) (v : Course) : Course :=
  tally.elim v fun x => v.tally1 x.1 x.2

theorem deadlineOf_charged (e : RuleEntry) (t : Telegram) (u : State) (k : BitVec 2) :
    deadlineOf (charged e t u) k = u.now + u.settings.classMs[k.toNat].toNat * 4000 := by
  rw [charged_fields]
  rfl

/-- The slot that `CarriedOut` names for an opening is the lowest free one (R43). -/
theorem slot_eq_freeSlot {pet : List PetEntry} {slot : Fin 64} (hroom : pet.length < 64) (hfree : ∀ x ∈ pet, x.slot ≠ slot)
    (htaken : ∀ j < slot, ∃ x ∈ pet, x.slot = j) : slot = freeSlot pet := by
  obtain ⟨hfree', htaken'⟩ := freeSlot_spec pet hroom
  rcases lt_trichotomy slot (freeSlot pet) with hlt | heq | hgt
  · obtain ⟨x, hx, hslot⟩ := htaken' slot hlt
    exact absurd hslot (hfree x hx)
  · exact heq
  · obtain ⟨x, hx, hslot⟩ := htaken (freeSlot pet) hgt
    exact absurd hslot (hfree' x hx)

/-- Steps 1 to 6 come to step 7 with what `CarriedOut` says, which there is carried out and then tallied (R38, R39, R69). -/
theorem forwardSteps_carriedOut {tr : Treatment} {p : Port} {t : Telegram} {i : RuleIndex} {e : RuleEntry}
    (htr : TreatsAs tr p t i e) {u v : State} {tally : Option (Option Group × Counter)}
    (hkeys : ∀ group k, tally = some (group, k) → k ≠ .opened → (u.pet.map PetEntry.key).Nodup) (hreaches : ReachesTracker p e t u)
    (hsound : tracked e t = true → SoundPet u) (h : CarriedOut p i e t u v tally) :
    ∃ due act, forwardSteps p t tr u = .enqueue due (!within e t u) act ∧
      carryOut p tr.group act (Course.of (charge due u)) = trackerTally tally (Course.of v) := by
  obtain ⟨due, hsteps, hcharge⟩ := forwardSteps_asks htr hreaches
  rw [hsteps]
  obtain ⟨profiles, hcharged⟩ : ∃ profiles, charged e t u = { u with profiles := profiles } := ⟨_, charged_fields e t u⟩
  rcases h with ⟨huntracked, rfl, rfl⟩ | ⟨haction, hkind, hnew, hroom, hlimit, rfl, slot, hfree, htaken, rfl⟩ |
      ⟨x, hx, haction, hkind, hkey, hport, hless, rfl, rfl⟩ | ⟨x, hx, haction, hkind, hkey, hport, rfl, rfl⟩
  · exact ⟨due, none, stepSix_untracked htr huntracked _ _ _, by rw [hcharge]; rfl⟩
  · have htracked := (tracked_iff e t).2 ⟨haction, .inl hkind⟩
    refine ⟨due, _, by
      rw [stepSix_tracked htr htracked, trackAnswer_poll (hsound htracked) p hkind, pollAnswer_new hnew, if_neg (by omega),
        if_neg (by omega)]
      rfl, ?_⟩
    rw [hcharge, htr.group, slot_eq_freeSlot hroom hfree htaken]
    rw [hcharged]
    rfl
  · have htracked := (tracked_iff e t).2 ⟨haction, .inl hkind⟩
    refine ⟨due, _, by
      rw [stepSix_tracked htr htracked, trackAnswer_poll (hsound htracked) p hkind,
        pollAnswer_repeats (hkeys _ _ rfl (by decide)) hx hkey, if_pos ⟨hport, BitVec.lt_def.2 hless⟩]
      rfl, ?_⟩
    have hclass : ∀ y ∈ u.pet,
        (if y.key = x.key then { y with used := y.used + 1, deadline := deadlineOf (charged e t u) y.timeoutClass } else y) =
          (if y.key = x.key then { y with used := y.used + 1,
                                          deadline := u.now + u.settings.classMs[x.timeoutClass.toNat].toNat * 4000 }
            else y) := by
      intro y hy
      split
      case isTrue hsame => rw [entry_of_key (hkeys _ _ rfl (by decide)) hx hy hsame, deadlineOf_charged]
      case isFalse => rfl
    rw [hcharge, ← List.map_congr_left hclass, hcharged]
    rfl
  · have htracked := (tracked_iff e t).2 ⟨haction, .inr hkind⟩
    refine ⟨due, _, by
      rw [stepSix_tracked htr htracked, trackAnswer_reply (hsound htracked) p hkind,
        replyAnswer_closes (hkeys _ _ rfl (by decide)) hx hkey hport]
      rfl, ?_⟩
    rw [hcharge, hcharged]
    rfl

/-! ## Step 7: the enqueue (R39, R41, R42) -/

/-- A telegram as it is forwarded, under the group of its entry (R42). -/
def forwardedAs (e : RuleEntry) (t : Telegram) (marked : Bool) : Forwarded :=
  { telegram := { t with reach := t.reach - 1, mark := t.mark || marked }, group := e.group }

/-- The telegram at the tail of the output port's queue, and the capture made (R39, R41). -/
def joinedAs (p : Port) (i : RuleIndex) (e : RuleEntry) (t : Telegram) (marked : Bool) (v : State) : State :=
  captured p i e t (if marked then .enqueuedMarked else .enqueued)
    (v.onPort p.other fun q => { q with forwardQ := q.forwardQ ++ [forwardedAs e t marked] })

/-- What step 7 comes to once the tracker's change and its tally are made (R39). -/
theorem enqueueTelegram_eq {tr : Treatment} {p : Port} {t : Telegram} {i : RuleIndex} {e : RuleEntry} (htr : TreatsAs tr p t i e)
    {due : Option (Fin 16 × Nat)} {act : Option TrackAction} {u : State} {after : Course} (marked : Bool)
    (hcarried : carryOut p tr.group act (Course.of (charge due u)) = after) :
    enqueueTelegram p t tr due marked act u =
      take p.other (((if marked then after.tally1 e.group .overRateMarked else after).map (joinedAs p i e t marked)).finish) := by
  subst hcarried
  simp only [enqueueTelegram, htr.group]
  refine congrArg (fun x => take p.other (Course.finish x)) ?_
  cases marked <;> simp only [Course.map, htr.capture, joinForward, joinedAs, forwardedAs, Telegram.forwarded]

theorem captured_now (p : Port) (i : RuleIndex) (e : RuleEntry) (t : Telegram) (outcome : CaptureOutcome) (u : State) :
    (captured p i e t outcome u).now = u.now := by
  unfold captured
  split_ifs <;> rfl

theorem captured_sampled (p : Port) (i : RuleIndex) (e : RuleEntry) (t : Telegram) (outcome : CaptureOutcome) (u : State) :
    (captured p i e t outcome u).sampled = u.sampled := by
  unfold captured
  split_ifs <;> rfl

theorem captured_port (p : Port) (i : RuleIndex) (e : RuleEntry) (t : Telegram) (outcome : CaptureOutcome) (u : State) (p' : Port) :
    (captured p i e t outcome u).port p' = u.port p' := by
  unfold captured
  split_ifs <;> cases p' <;> rfl

/-- A capture request and a change of a port do not meet. -/
theorem captured_setPort (p : Port) (i : RuleIndex) (e : RuleEntry) (t : Telegram) (outcome : CaptureOutcome) (u : State) (p' : Port)
    (q : PortState) : captured p i e t outcome (u.setPort p' q) = (captured p i e t outcome u).setPort p' q := by
  unfold captured
  rw [setPort_captures]
  split_ifs <;> rfl

theorem tallied_port (group : Option Group) (k : Counter) (n : Nat) (u : State) (p : Port) :
    (tallied group k n u).port p = u.port p := by
  rw [tallied_fields]
  cases p <;> rfl

theorem tallied_now (group : Option Group) (k : Counter) (n : Nat) (u : State) : (tallied group k n u).now = u.now := by
  rw [tallied_fields]

theorem tallied_sampled (group : Option Group) (k : Counter) (n : Nat) (u : State) :
    (tallied group k n u).sampled = u.sampled := by
  rw [tallied_fields]

theorem tallied_gate (group : Option Group) (k : Counter) (n : Nat) (u : State) : (tallied group k n u).gate = u.gate := by
  rw [tallied_fields]

/-- The take after a join, over a state whose output port, clock and straps are those of `v` (R17, R39). -/
theorem enqueued_of_take {p : Port} {i : RuleIndex} {e : RuleEntry} {t : Telegram} {marked : Bool} {v : State} :
    Enqueued p i e t marked v
      (take p.other (joinedAs p i e t marked (if marked then tallied e.group .overRateMarked 1 v else v))) := by
  have hport : ((if marked then tallied e.group .overRateMarked 1 v else v).port p.other) = v.port p.other := by
    split
    · exact tallied_port ..
    · rfl
  have hnow : (if marked then tallied e.group .overRateMarked 1 v else v).now = v.now := by
    split
    · exact tallied_now ..
    · rfl
  have hsampled : (if marked then tallied e.group .overRateMarked 1 v else v).sampled = v.sampled := by
    split
    · exact tallied_sampled ..
    · rfl
  obtain ⟨hframe, htakes⟩ := take_takesAgain p.other
    (joinedAs p i e t marked (if marked then tallied e.group .overRateMarked 1 v else v))
  constructor
  · rw [hframe, joinedAs, State.onPort, captured_setPort, setPort_setPort, port_setPort_same]
  · simp only [joinedAs, captured_now, captured_sampled, captured_port, port_onPort_same, onPort_now, onPort_sampled, hport, hnow,
      hsampled] at htakes
    exact htakes

/-- A frame end whose telegram comes to step 7 with every group that is tallied sound (R39). -/
theorem crosses_enqueued {w : Since} {p : Port} {rest : List Byte} {s : State} {t : Telegram} {i : RuleIndex} {e : RuleEntry}
    {v v' : State} {tally : Option (Option Group × Counter)} (hcrosses : Crosses w p rest s t)
    (htreated : Treated (received w p s) p t i e)
    (hkeys : ∀ group k, tally = some (group, k) → k ≠ .opened → ((received w p s).pet.map PetEntry.key).Nodup)
    (hreaches : ReachesTracker p e t (received w p s)) (hsound : tracked e t = true → SoundPet (received w p s))
    (hcarried : CarriedOut p i e t (received w p s) v tally)
    (htally : trackerTally tally (Course.of v) = Course.of v')
    (hgroup : within e t (received w p s) = false → SoundGroup e.group v') :
    ∃ s', exec (.frameEnd w p rest) s = .next s' ∧ Enqueued p i e t (!within e t (received w p s)) v' s' := by
  obtain ⟨tr, htr, hclassify⟩ := classify_treated htreated
  obtain ⟨due, act, hsteps, hafter⟩ := forwardSteps_carriedOut htr hkeys hreaches hsound hcarried
  refine ⟨_, crosses_classified w p rest s t hcrosses, ?_⟩
  rw [hclassify, forwardDecision, hsteps]
  simp only [enqueueTelegram_eq htr _ (hafter.trans htally)]
  generalize hmarked : (!within e t (received w p s)) = marked
  have hfinish : ((if marked then (Course.of v').tally1 e.group .overRateMarked else Course.of v').map
      (joinedAs p i e t marked)).finish =
        joinedAs p i e t marked (if marked then tallied e.group .overRateMarked 1 v' else v') := by
    cases marked with
    | false => rfl
    | true =>
      rw [if_pos rfl, if_pos rfl, tally1_sound _ _ _ rfl (hgroup (by simpa using hmarked))]
      rfl
  rw [hfinish]
  exact enqueued_of_take

/-- The tracker's tally over a sound group (R69). -/
theorem trackerTally_sound {group : Option Group} {v : State} (k : Counter) (h : SoundGroup group v) :
    trackerTally (some (group, k)) (Course.of v) = Course.of (tallied group k 1 v) :=
  tally1_sound group k (Course.of v) rfl h

theorem soundGroup_congr {group : Option Group} {u v : State} (htallies : v.tallies = u.tallies) (h : SoundGroup group u) :
    SoundGroup group v := fun g hg => by rw [htallies]; exact h g hg

theorem charged_tallies (e : RuleEntry) (t : Telegram) (u : State) : (charged e t u).tallies = u.tallies := by rw [charged_fields]

theorem carriedOut_tallies {p : Port} {i : RuleIndex} {e : RuleEntry} {t : Telegram} {u v : State}
    {tally : Option (Option Group × Counter)} (h : CarriedOut p i e t u v tally) : v.tallies = u.tallies := by
  rcases h with ⟨-, rfl, -⟩ | ⟨-, -, -, -, -, -, slot, -, -, rfl⟩ | ⟨x, -, -, -, -, -, -, -, rfl⟩ | ⟨x, -, -, -, -, -, -, rfl⟩ <;>
    exact charged_tallies e t u

theorem carriedOut_gate {p : Port} {i : RuleIndex} {e : RuleEntry} {t : Telegram} {u v : State}
    {tally : Option (Option Group × Counter)} (h : CarriedOut p i e t u v tally) : v.gate = u.gate := by
  have hcharged : (charged e t u).gate = u.gate := by rw [charged_fields]
  rcases h with ⟨-, rfl, -⟩ | ⟨-, -, -, -, -, -, slot, -, -, rfl⟩ | ⟨x, -, -, -, -, -, -, -, rfl⟩ | ⟨x, -, -, -, -, -, -, rfl⟩ <;>
    exact hcharged

/-- A tracked telegram that step 5 lets pass is enqueued over the tracker's change and its tally (R39). -/
theorem crosses_tracked {w : Since} {p : Port} {rest : List Byte} {s : State} {t : Telegram} {i : RuleIndex} {e : RuleEntry}
    {v : State} {group : Option Group} {k : Counter} (hcrosses : Crosses w p rest s t)
    (htreated : Treated (received w p s) p t i e) (hkeys : k ≠ .opened → ((received w p s).pet.map PetEntry.key).Nodup)
    (haction : e.action = .track) (hclear : Clear p (received w p s)) (hrate : RateAllows e t (received w p s))
    (hsound : SoundPet (received w p s)) (hgroup : SoundGroup group (received w p s))
    (hcarried : CarriedOut p i e t (received w p s) v (some (group, k))) :
    ∃ s', exec (.frameEnd w p rest) s = .next s' ∧
      Enqueued p i e t (!within e t (received w p s)) (tallied group k 1 v) s' := by
  have htallies := carriedOut_tallies hcarried
  refine crosses_enqueued hcrosses htreated (fun _ _ hk hne => by cases hk; exact hkeys hne) ⟨by rw [haction]; decide, hclear, hrate.imp_right And.left⟩
    (fun _ => hsound) hcarried (trackerTally_sound k (soundGroup_congr htallies hgroup)) fun hover => ?_
  obtain ⟨-, hmark⟩ := hrate.resolve_left (by rw [hover]; exact Bool.false_ne_true)
  exact tallied_sound _ _ _ _ (soundGroup_congr htallies hmark)

/-- Settles O22: step 5 discards, or the telegram comes to step 7 without the tracker. -/
theorem untrackedTelegramIsRatedAndEnqueued : Obligations.UntrackedTelegramIsRatedAndEnqueued := by
  intro w p rest s t i e hcrosses u htreated haction hclear
  refine ⟨fun hover hdrop hgroup => ?_, fun huntracked hrate => ?_⟩
  · exact crosses_discarded (x := .overRateDropped) hcrosses htreated hgroup (by rintro ⟨⟩) ⟨haction, hclear, hover, hdrop⟩
  · have hnot (h : tracked e t = true) : False := by rw [huntracked] at h; cases h
    refine crosses_enqueued hcrosses htreated (by rintro - - ⟨⟩) ⟨haction, hclear, hrate.imp_right And.left⟩
      (fun h => (hnot h).elim) (.inl ⟨huntracked, rfl, rfl⟩) rfl fun hover => ?_
    obtain ⟨-, hmark⟩ := hrate.resolve_left (by rw [hover]; exact Bool.false_ne_true)
    exact soundGroup_congr (charged_tallies e t u) hmark

/-- Settles O23: the tracker's opening is the second case of `CarriedOut`, at the lowest free slot. -/
theorem pollOpensAnExchange : Obligations.PollOpensAnExchange := by
  intro w p rest s t i e hcrosses u key htreated haction hkind hclear hrate hgroup hsound hnew hroom hlimit
  obtain ⟨hfree, htaken⟩ := freeSlot_spec u.pet hroom
  obtain ⟨s', hexec, henqueued⟩ := crosses_tracked hcrosses htreated (fun hopened => absurd rfl hopened) haction hclear hrate hsound
    hgroup (.inr (.inl ⟨haction, hkind, hnew, hroom, hlimit, rfl, _, hfree, htaken, rfl⟩))
  exact ⟨_, s', hfree, htaken, hexec, henqueued⟩

/-- Settles O24: the third case of `CarriedOut`. -/
theorem pollRetriesAnExchange : Obligations.PollRetriesAnExchange := by
  intro w p rest s t i e x hok hcrosses u htreated haction hkind hclear hrate hsound hx hkey hport hless hgroup
  exact crosses_tracked hcrosses htreated (fun _ => received_keys hok) haction hclear hrate hsound hgroup
    (.inr (.inr (.inl ⟨x, hx, haction, hkind, hkey, hport, hless, rfl, rfl⟩)))

/-- Settles O25: the fourth case of `CarriedOut`. -/
theorem replyClosesAnExchange : Obligations.ReplyClosesAnExchange := by
  intro w p rest s t i e x hok hcrosses u htreated haction hkind hclear hrate hsound hx hkey hport hgroup
  exact crosses_tracked hcrosses htreated (fun _ => received_keys hok) haction hclear hrate hsound hgroup
    (.inr (.inr (.inr ⟨x, hx, haction, hkind, hkey, hport, rfl, rfl⟩)))

/-! ## The faults of a forward decision (R28, R68, R116) -/

/-- The lookup ends at the first entry whose check code is wrong, no entry below it taking the telegram (R28, R29). -/
theorem lookup_corrupt {bank : RuleBank} {d : Direction} {t : Telegram} {i : RuleIndex} (hpassed : PassedBelow bank d t i.val)
    (hwrong : bank[i].sound = false) : lookup bank d t = .corrupt i := by
  obtain ⟨xs, ys, hsplit, hbelow⟩ := finRange_split i
  rw [lookup, hsplit, lookupIn_skip _ _ _ _ _ fun j hj => hpassed j (hbelow j hj), lookupIn,
    if_neg (by rw [hwrong]; exact Bool.false_ne_true)]

/-- The tracker's search ends at the first open exchange, in listing order, whose check code is wrong (R68; log entry 10). -/
theorem trackAnswer_corrupt {u : State} {before after : List PetEntry} {x : PetEntry} (hpet : u.pet = before ++ x :: after)
    (hsound : ∀ y ∈ before, u.petSound[y.slot] = true) (hwrong : u.petSound[x.slot] = false) (p : Port) (t : Telegram)
    (i : RuleIndex) (terms : TrackTerms) : trackAnswer p t i terms u = .corrupt x.slot := by
  have hfound : corruptEntry u = some x :=
    List.find?_eq_some_iff_append.2 ⟨by simpa using hwrong, before, after, hpet, fun y hy => by simpa using hsound y hy⟩
  rw [trackAnswer, hfound]

/-- What has found a fault makes no further tally. -/
theorem tally1_fault (group : Option Group) (k : Counter) (v : State) (fault : GateFault) :
    ({ state := v, found := some fault } : Course).tally1 group k = { state := v, found := some fault } :=
  tally_afterFault group [(k, 1)] _ (by simp)

/-- A tally of a group whose check code is wrong finds the fault (R116). -/
theorem tally1_corrupt {g : Group} {v : State} (k : Counter) (hwrong : v.tallies[g].sound = false) :
    (Course.of v).tally1 (some g) k = { state := v, found := some (.tallyStore g) } :=
  tally_corrupt g [(k, 1)] (Course.of v) rfl hwrong

theorem joinedAs_gate (p : Port) (i : RuleIndex) (e : RuleEntry) (t : Telegram) (marked : Bool) (v : State) :
    (joinedAs p i e t marked v).gate = v.gate := by
  rw [joinedAs, captured_gate, onPort_gate]

/-- A tally of step 7 that finds a fault: the telegram has joined its queue and the capture is made, then the gate halts, and the
transmitter takes after that (R116; log entry 11). -/
theorem crosses_enqueue_halts {w : Since} {p : Port} {rest : List Byte} {s : State} {t : Telegram} {i : RuleIndex} {e : RuleEntry}
    {v v' : State} {tally : Option (Option Group × Counter)} {fault : GateFault} (hok : TrackerOk s)
    (hcrosses : Crosses w p rest s t) (htreated : Treated (received w p s) p t i e)
    (hreaches : ReachesTracker p e t (received w p s)) (hsound : tracked e t = true → SoundPet (received w p s))
    (hcarried : CarriedOut p i e t (received w p s) v tally) (hgate : v'.gate = .serving)
    (hfault : (if (!within e t (received w p s)) = true then (trackerTally tally (Course.of v)).tally1 e.group .overRateMarked
      else trackerTally tally (Course.of v)) = { state := v', found := some fault }) :
    ∃ m s', exec (.frameEnd w p rest) s = .next s' ∧
      Halts fault (joinedAs p i e t (!within e t (received w p s)) v') m ∧ TakesAgain p.other m s' := by
  obtain ⟨tr, htr, hclassify⟩ := classify_treated htreated
  obtain ⟨due, act, hsteps, hafter⟩ := forwardSteps_carriedOut htr (fun _ _ _ _ => received_keys hok) hreaches hsound hcarried
  refine ⟨_, _, crosses_classified w p rest s t hcrosses, haltOn_halts fault _ ((joinedAs_gate ..).trans hgate), ?_⟩
  rw [hclassify, forwardDecision, hsteps]
  simp only [enqueueTelegram_eq htr _ hafter, hfault]
  exact take_takesAgain _ _

/-- Settles O27: the lookup, the tracker's search, the tally of a discard and the two tallies of step 7. -/
theorem forwardDecisionFaultsHalt : Obligations.ForwardDecisionFaultsHalt := by
  intro w p rest s t hcrosses u
  have hgate : u.gate = .serving := received_gate hcrosses
  have hexec : exec (.frameEnd w p rest) s = .next (classify p t u) := crosses_classified w p rest s t hcrosses
  refine ⟨fun i hpassed hwrong => ⟨_, hexec, ?_⟩, fun i e htreated => ⟨?_, ?_, ?_⟩⟩
  · rw [classify, lookup_corrupt hpassed hwrong]
    exact haltOn_halts _ u hgate
  · intro before after x htracked hreaches hpet hbefore hwrong
    obtain ⟨tr, htr, hclassify⟩ := classify_treated htreated
    obtain ⟨due, hsteps, -⟩ := forwardSteps_asks htr hreaches
    refine ⟨_, hexec, ?_⟩
    rw [hclassify, forwardDecision, hsteps, stepSix_tracked htr htracked, trackAnswer_corrupt hpet hbefore hwrong]
    exact haltOn_halts _ u hgate
  · intro x g hok hends hgroup hwrong v
    obtain ⟨tr, htr, hclassify⟩ := classify_treated htreated
    refine ⟨_, hexec, ?_⟩
    rw [hclassify, forwardDecision, forwardSteps_endsAt htr (fun _ => received_keys hok) hends]
    exact discardTelegram_faulty htr x hgate hgroup hwrong
  · intro v tally hok hreaches hsound hcarried marked x halts
    have htallies := carriedOut_tallies hcarried
    have hserving := (carriedOut_gate hcarried).trans hgate
    have halts_of {g : Group} {v' : State} (hserving' : v'.gate = .serving) (hfault :
        (if marked = true then (trackerTally tally (Course.of v)).tally1 e.group .overRateMarked
          else trackerTally tally (Course.of v)) = { state := v', found := some (.tallyStore g) }) : halts g v' :=
      crosses_enqueue_halts hok hcrosses htreated hreaches hsound hcarried hserving' hfault
    refine ⟨fun g k htally hwrong => halts_of hserving ?_, fun g hmarked hgroup hwrong =>
      ⟨fun htally => halts_of hserving ?_, fun group k htally hsoundGroup => halts_of ((tallied_gate ..).trans hserving) ?_⟩⟩
    · have hfound : trackerTally tally (Course.of v) = { state := v, found := some (.tallyStore g) } := by
        rw [htally]
        exact tally1_corrupt k (by rw [htallies]; exact hwrong)
      rw [hfound, tally1_fault, ite_self]
    · rw [htally, if_pos hmarked, hgroup]
      exact tally1_corrupt _ (by rw [htallies]; exact hwrong)
    · have hother : group ≠ some g := fun h => by
        have := hsoundGroup g h
        rw [hwrong] at this
        cases this
      rw [htally, trackerTally_sound k (soundGroup_congr htallies hsoundGroup), if_pos hmarked, hgroup]
      refine tally1_corrupt _ ?_
      rw [tallied_get, if_neg hother, raisedBy_zero, htallies]
      exact hwrong

end Sys2Proof.Proofs
end

section
/-! Events that no telegram brings: transmit completion, line monitor, deadline, validation's end, the end of STARTING (O28, O29, O31,
O33, O34, O37). -/

namespace Sys2Proof.Proofs

open Sys2Proof.Machine Sys2Proof.Laws Sys2Proof.Safety

/-- A read of a wrong check code, by the gate state (R116, R197). -/
theorem haltOn_haltsIfServing (fault : GateFault) (u : State) : HaltsIfServing fault u (haltOn fault u) := by
  unfold HaltsIfServing
  split
  case isTrue hserving => exact haltOn_halts fault u hserving
  case isFalse hstopped => exact haltOn_stopped fault u hstopped

/-! ## The transmitter and the line monitor (R11, R12, R17) -/

/-- The one read of a completion over a sound group makes both tallies (R112). -/
theorem tally_passed (y : Forwarded) {u : State} (h : SoundGroup y.group u) :
    (Course.of u).tally y.group (passedTallies y.telegram) =
      Course.of (tallied y.group .passedOctets (5 + y.telegram.payload.length) (tallied y.group .passed 1 u)) := by
  cases hgroup : y.group with
  | none => exact tally_absent _ _
  | some g =>
    rw [tally_made g _ _ rfl (h g hgroup)]
    simp only [tallied, Course.of, Fin.getElem_fin, Vector.getElem_set_self, Vector.set_set]
    rfl

/-- Settles O28: each clause is one case of `completeTransmission`. -/
theorem transmitCompletion : Obligations.TransmitCompletion := by
  intro w p s x hsending u
  have hexec : exec (.transmitCompletion w p) s = .next (completeTransmission p x (lapse w s)) := by
    simp only [exec, execTransmitCompletion, lapse_port, hsending]
  have hslot : u.slot = s.slot := by simp [u]
  refine ⟨fun y hy hsound => ⟨_, hexec, ?_⟩, fun y g hy hgroup hwrong => ⟨haltOn (.tallyStore g) u, _, ?_, hexec, ?_⟩,
    fun y hy hother => ⟨_, hexec, ?_⟩, fun y hy hanswer hrestarting => ?_⟩
  · simp only [completeTransmission, hy]
    rw [show freeTransmitter p ((lapse w s).reach x.ends) = u from rfl, tally_passed y hsound]
    exact take_takesAgain _ _
  · exact haltOn_haltsIfServing _ _
  · simp only [completeTransmission, hy]
    rw [show freeTransmitter p ((lapse w s).reach x.ends) = u from rfl, hgroup, tally_corrupt g _ _ rfl hwrong]
    exact take_takesAgain _ _
  · simp only [completeTransmission, hy]
    rw [show freeTransmitter p ((lapse w s).reach x.ends) = u from rfl]
    split
    · rename_i r hanswer hr
      rw [hslot] at hr
      rw [hanswer, hr] at hother
      exact absurd hother (by simp [Slot.state])
    · exact take_takesAgain _ _
  · rw [hexec, completeTransmission, hy]
    cases hr : s.slot with
    | idle => rw [hr] at hrestarting; cases hrestarting
    | validating c => rw [hr] at hrestarting; cases hrestarting
    | restarting r =>
      simp only [hanswer, show (freeTransmitter p ((lapse w s).reach x.ends)).slot = .restarting r from hslot.trans hr]
      rfl

/-- A transmitter with empty queues takes nothing (R17). -/
theorem take_idle {now bt : Nat} {q : PortState} (hl : q.localQ = []) (hf : q.forwardQ = []) : q.take now bt = q := by
  simp [PortState.take, hl, hf]

/-- Settles O29: each clause is one case of the line monitor. -/
theorem lineMonitor : Obligations.LineMonitor := by
  intro w p present s
  have hexec : exec (.signalChange w p present) s =
      .next ((lapse w s).onPort p (PortState.signalChange (s.now + w.elapsed) s.inReset present)) := by
    simp only [exec, execSignalChange, lapse_now, lapse_inReset]
  refine ⟨fun hrun hchange => ?_, fun hheld hchange => ?_, fun hsame => ?_, fun start hrun hdown htiming => ?_⟩
  · rw [hexec, State.onPort, State.onPort, lapse_port, PortState.signalChange, if_neg hchange, hrun]
    cases (s.port p).line <;> cases present <;> rfl
  · rw [hexec, State.onPort, State.onPort, lapse_port, PortState.signalChange, if_neg hchange, hheld]
    simp
  · rw [hexec, State.onPort, lapse_port, PortState.signalChange, if_pos hsame, ← lapse_port w s p, setPort_self]
  · have hreturn : exec (.lineReturn w p) s = .next (take p (((lapse w s).reach (start + 2 * 4000)).onPort p fun q =>
        { q with line := .up, timing := none })) := by
      simp only [exec, execLineReturn, lapse_inReset, lapse_port, hrun, hdown, htiming]
      rfl
    refine ⟨fun hok => ?_, fun _ => ⟨_, hreturn, take_takesAgain _ _⟩⟩
    have hqueues : (s.port p).forwardQ = [] ∧ (s.port p).localQ = [] := by
      obtain ⟨-, -, hc, hf⟩ := hok
      cases p
      · exact ⟨(hc hdown).1, (hc hdown).2.1⟩
      · exact ⟨(hf hdown).1, (hf hdown).2.1⟩
    rw [hreturn, take, State.onPort, take_idle, setPort_self]
    · simpa using hqueues.2
    · simpa using hqueues.1

/-! ## Deadlines (R49, R58, R59) -/

/-- The exchange that a deadline expiry finds by its key is that entry (R43). -/
theorem exec_deadlineExpiry {s : State} {x : PetEntry} (hok : TrackerOk s) (hx : x ∈ s.pet) (w : Since) :
    exec (.deadlineExpiry w x.key) s = .next (lapseExchange x ((lapse w s).reach x.deadline)) := by
  obtain ⟨hkeys, -⟩ := hok
  have hfind : (s.pet.find? fun y => decide (y.key = x.key)) = some x := by
    cases hfound : s.pet.find? fun y => decide (y.key = x.key) with
    | none => exact absurd (decide_eq_true rfl) (List.find?_eq_none.1 hfound x hx)
    | some y =>
      rw [entry_of_key hkeys hx (List.mem_of_find?_eq_some hfound) (by simpa using List.find?_some hfound)]
  simp only [exec, execDeadlineExpiry, lapse_pet, hfind]

/-- Settles O31: the branches of `lapseExchange`. -/
theorem deadlineExpiryLapses : Obligations.DeadlineExpiryLapses := by
  intro w s x hok hx u removed gone
  have hexec : exec (.deadlineExpiry w x.key) s = .next (lapseExchange x u) := exec_deadlineExpiry hok hx w
  have hremoved : { u with pet := removeEntry x.key u.pet, ring := pushKey x.key u.ring } = removed := by
    simp only [removed, removeEntry, pushKey, u, reach_pet, lapse_pet, reach_ring, lapse_ring, Config.ringCapacity]
  have hgate : u.gate = s.gate := by simp [u]
  have hlapse (hread : u.petSound[x.slot] = true) : lapseExchange x u =
      (if ((Course.of removed).tally1 x.group .lapsed).found = none ∧ x.notice = true then
        ((Course.of removed).tally1 x.group .lapsed).map (offerNotice x)
      else (Course.of removed).tally1 x.group .lapsed).finish := by
    rw [lapseExchange, if_pos hread, hremoved]
  have hmade (hsound : SoundGroup x.group u) : (Course.of removed).tally1 x.group .lapsed = Course.of gone :=
    tally1_sound x.group .lapsed (Course.of removed) rfl hsound
  refine ⟨fun hread hsound hquiet => ?_, fun hread hsound hnotice => ⟨offerNotice x gone, ?_, ?_, ?_⟩,
    fun hread hserving => ⟨_, hexec, ?_⟩, fun g hread hgroup hwrong hserving => ⟨_, hexec, ?_⟩⟩
  · rw [hexec, hlapse hread, hmade hsound, hquiet, if_neg (by simp)]
    rfl
  · rw [hexec, hlapse hread, hmade hsound, hnotice, if_pos ⟨rfl, rfl⟩]
    rfl
  · rw [offerNotice, offer_port, port_setPort_same]
  · have hport : gone.port x.port = s.port x.port := by
      simp only [gone, tallied_port]
      cases x.port <;> simp [removed, u]
    have hplaced := offer_placed gone.now (byteTime gone.sampled.rts) .noticesDropped
      (ownTelegram gone .note x.key.requester 0 (lapsePayload x)) (gone.port x.port)
    rw [offerNotice, offer_port, port_setPort_same]
    rw [hport] at hplaced ⊢
    rw [show gone = { removed with tallies := gone.tallies } from tallied_fields ..] at hplaced ⊢
    exact hplaced
  · rw [lapseExchange, if_neg (by rw [hread]; exact Bool.false_ne_true)]
    exact haltOn_halts _ u (hgate.trans hserving)
  · have hcorrupt : (Course.of removed).tally1 x.group .lapsed = { state := removed, found := some (.tallyStore g) } := by
      rw [hgroup]
      exact tally1_corrupt _ hwrong
    rw [hlapse hread, hcorrupt, if_neg (by simp)]
    exact haltOn_halts _ removed (hgate.trans hserving)

/-! ## Validation (R91, R94) -/

/-- The first failure of a list of entries, with the passing entries before it (R91). -/
theorem bankFailureIn_eq_some {profiles : Vector Profile 16} {bank : RuleBank} {is : List RuleIndex} {r : Reason} {i : RuleIndex}
    (h : bankFailureIn profiles bank is = some (r, i)) :
    bank[i].item.inUse = true ∧ entryFailure profiles bank[i].item = some r ∧
      ∃ before after, is = before ++ i :: after ∧
        ∀ j ∈ before, bank[j].item.inUse = true → entryFailure profiles bank[j].item = none := by
  induction is with
  | nil => cases h
  | cons k is ih =>
    have further (hk : bank[k].item.inUse = true → entryFailure profiles bank[k].item = none)
        (h : bankFailureIn profiles bank is = some (r, i)) :
        bank[i].item.inUse = true ∧ entryFailure profiles bank[i].item = some r ∧
          ∃ before after, k :: is = before ++ i :: after ∧
            ∀ j ∈ before, bank[j].item.inUse = true → entryFailure profiles bank[j].item = none := by
      obtain ⟨huse, hfails, before, after, hsplit, hbefore⟩ := ih h
      exact ⟨huse, hfails, k :: before, after, by rw [hsplit]; rfl, List.forall_mem_cons.2 ⟨hk, hbefore⟩⟩
    rw [bankFailureIn] at h
    split at h
    case isTrue huse =>
      split at h
      case h_1 r' hfails =>
        cases h
        exact ⟨huse, hfails, [], is, rfl, fun _ hj => absurd hj List.not_mem_nil⟩
      case h_2 hpasses => exact further (fun _ => hpasses) h
    case isFalse hfree => exact further (fun huse => absurd huse hfree) h

/-- Entries that pass do not end the validation of a list (R91). -/
theorem bankFailureIn_skip {profiles : Vector Profile 16} {bank : RuleBank} {xs : List RuleIndex}
    (h : ∀ j ∈ xs, bank[j].item.inUse = true → entryFailure profiles bank[j].item = none) (ys : List RuleIndex) :
    bankFailureIn profiles bank (xs ++ ys) = bankFailureIn profiles bank ys := by
  induction xs with
  | nil => rfl
  | cons k xs ih =>
    have hrest := ih fun j hj => h j (List.mem_cons_of_mem _ hj)
    rw [List.cons_append, bankFailureIn, hrest]
    split
    case isTrue huse => rw [h k List.mem_cons_self huse]
    case isFalse => rfl

/-- Validation's result is the first in-use entry that fails, and the check it fails first (R91). -/
theorem bankFailure_eq_some_iff (profiles : Vector Profile 16) (bank : RuleBank) (r : Reason) (i : RuleIndex) :
    bankFailure profiles bank = some (r, i) ↔
      bank[i].item.inUse = true ∧ entryFailure profiles bank[i].item = some r ∧
        ∀ j : RuleIndex, j < i → bank[j].item.inUse = true → entryFailure profiles bank[j].item = none := by
  constructor
  · intro h
    obtain ⟨huse, hfails, before, after, hsplit, hbefore⟩ := bankFailureIn_eq_some h
    refine ⟨huse, hfails, fun j hj => ?_⟩
    have hsorted := List.pairwise_lt_finRange 128
    have hmem := List.mem_finRange j
    rw [hsplit, List.pairwise_append, List.pairwise_cons] at hsorted
    rw [hsplit, List.mem_append, List.mem_cons] at hmem
    rcases hmem with hmem | rfl | hmem
    · exact hbefore j hmem
    · exact absurd hj (lt_irrefl _)
    · exact absurd hj (lt_asymm (hsorted.2.1.1 j hmem))
  · rintro ⟨huse, hfails, hbelow⟩
    obtain ⟨xs, ys, hsplit, hlt⟩ := finRange_split i
    rw [bankFailure, hsplit, bankFailureIn_skip (fun j hj => hbelow j (hlt j hj)), bankFailureIn, if_pos huse, hfails]

theorem reasonNumber_injective {r r' : Reason} (h : (reasonNumber r).toNat = (reasonNumber r').toNat) : r = r' := by
  revert h
  cases r <;> cases r' <;> decide

/-- The check that an entry fails first is the one that validation finds (R91). -/
theorem entryFailure_eq_some_iff (profiles : Vector Profile 16) (e : RuleEntry) (r : Reason) :
    entryFailure profiles e = some r ↔ FailsFirst profiles e r := by
  rcases entryFailure_cases profiles e with ⟨hnone, hpasses⟩ | ⟨r', hsome, hfails, hfirst⟩
  · rw [hnone]
    exact iff_of_false (by simp) fun h => hpasses r h.1
  · rw [hsome, Option.some.injEq]
    constructor
    · rintro rfl
      exact ⟨hfails, hfirst⟩
    · rintro ⟨hr, hr'⟩
      apply reasonNumber_injective
      rcases lt_trichotomy (reasonNumber r').toNat (reasonNumber r).toNat with hlt | heq | hgt
      · exact absurd hfails (hr' r' hlt)
      · exact heq
      · exact absurd hr (hfirst r hgt)

/-- Settles O33: validation goes by `Fails` on the entries in index order. -/
theorem validationFindsTheFirstFailure : Obligations.ValidationFindsTheFirstFailure := by
  intro profiles bank fails
  have hfails : fails = Fails profiles := by
    funext e r
    cases r <;> rfl
  rw [hfails]
  refine ⟨fun r i => ?_, ?_⟩
  · simp only [bankFailure_eq_some_iff, entryFailure_eq_some_iff, entryFailure_eq_none_iff, FailsFirst, and_assoc]
  · simp only [bankFailure_eq_none_iff, entryFailure_eq_none_iff]

/-- Settles O34: the end of a commit REFUSED. -/
theorem validationRefuses : Obligations.ValidationRefuses := by
  intro w s c r i hslot hfailure
  refine ⟨endCommit c .refused (refusedDetail r i) (lapse w s).gate (lapse w s), ?_, ?_⟩
  · simp only [exec, execValidationComplete, lapse_slot, hslot, hfailure, refuseCommit]
  · rw [lapse_gate]
    exact endCommit_ended _ _ _ _ _

/-! ## The end of STARTING (R194, R196) -/

/-- The first index of a table that passes a test. -/
theorem find_finRange {n : Nat} {f : Fin n → Bool} {i : Fin n} (hi : f i = true) (hbelow : ∀ j < i, f j = false) :
    (List.finRange n).find? f = some i := by
  refine List.find?_eq_some_iff_getElem.2 ⟨hi, i.val, by simp, by simp, fun j hj => ?_⟩
  rw [List.getElem_finRange, hbelow _ hj]
  rfl

theorem corruptRule_none {bank : RuleBank} (h : ∀ i : RuleIndex, bank[i].sound = true) (is : List RuleIndex) :
    corruptRule bank is = none :=
  List.find?_eq_none.2 fun i _ => by rw [h i]; decide

theorem corruptRule_first {bank : RuleBank} {i : RuleIndex} (hbelow : ∀ j < i, bank[j].sound = true)
    (hwrong : bank[i].sound = false) : corruptRule bank (List.finRange 128) = some i :=
  find_finRange (by rw [hwrong]; rfl) fun j hj => by rw [hbelow j hj]; rfl

/-- The store check finds nothing when every stored item is sound (R196). -/
theorem storeCheck_sound {u : State} (hA : ∀ i : RuleIndex, u.bankA[i].sound = true) (hB : ∀ i : RuleIndex, u.bankB[i].sound = true)
    (hE : ∀ i : Fin 64, u.petSound[i] = true) (hT : ∀ g : Group, u.tallies[g].sound = true) : storeCheck u = none := by
  have hslots : ((List.finRange 64).find? fun i => !u.petSound[i]) = none := List.find?_eq_none.2 fun i _ => by rw [hE i]; decide
  have hgroups : ((List.finRange 32).find? fun g => !u.tallies[g].sound) = none := List.find?_eq_none.2 fun g _ => by rw [hT g]; decide
  rw [storeCheck, corruptRule_none hA, corruptRule_none hB, hslots, hgroups]

/-- Settles O37: the store check in its order, then the strap. -/
theorem startingEnds : Obligations.StartingEnds := by
  intro w s hstarting hrun u soundA soundB soundE soundT usable halts
  have hexec : exec (.startingEnd w) s = .next (endStarting u) := by
    simp only [exec, execStartingEnd, lapse_gate, lapse_inReset, hstarting, hrun]
    rfl
  have hstrap : u.sampled.stn = s.sampled.stn := by simp [u]
  have found {fault : GateFault} (h : storeCheck u = some fault) : halts fault :=
    ⟨_, hexec, by rw [endStarting, h]; exact enterHalted_halts fault u⟩
  refine ⟨fun hA hB hE hT husable => ?_, fun hA hB hE hT hunusable => ⟨_, hexec, ?_⟩, fun i hbelow hwrong => found ?_,
    fun i hA hbelow hwrong => found ?_, fun i hA hB hbelow hwrong => found ?_, fun g hA hB hE hbelow hwrong => found ?_⟩
  · rw [hexec, endStarting, storeCheck_sound hA hB hE hT, if_pos]
    simpa [sourceByteOk, hstrap] using husable
  · rw [endStarting, storeCheck_sound hA hB hE hT, if_neg, hstrap]
    · exact enterHalted_halts _ u
    · simpa [sourceByteOk, hstrap, usable] using hunusable
  · rw [storeCheck, corruptRule_first hbelow hwrong]
  · rw [storeCheck, corruptRule_none hA, corruptRule_first hbelow hwrong]
  · rw [storeCheck, corruptRule_none hA, corruptRule_none hB,
      find_finRange (i := i) (by rw [hwrong]; rfl) fun j hj => by rw [hbelow j hj]; rfl]
  · have hslots : ((List.finRange 64).find? fun i => !u.petSound[i]) = none := List.find?_eq_none.2 fun i _ => by rw [hE i]; decide
    rw [storeCheck, corruptRule_none hA, corruptRule_none hB, hslots,
      find_finRange (i := g) (by rw [hwrong]; rfl) fun j hj => by rw [hbelow j hj]; rfl]

end Sys2Proof.Proofs
end

section
/-! A line loss and the completion of a commit: held and line lost tallies, then a flush, then the end (O30, O35). -/

namespace Sys2Proof.Proofs

open Sys2Proof.Machine Sys2Proof.Laws Sys2Proof.Safety

/-! ## A flush after the tallies of removed telegrams -/

/-- The tallies of removed telegrams whose groups are sound leave every check code as it was (R112). -/
theorem raisedBy_sound_eq {xs : List Forwarded} {u : State} (h : ∀ x ∈ xs, SoundGroup x.group u) (k : Counter) (g : Group) :
    (raisedBy k (carrying Forwarded.group g xs) u.tallies[g]).sound = u.tallies[g].sound := by
  by_cases hnone : carrying Forwarded.group g xs = 0
  · rw [hnone, raisedBy_zero]
  · obtain ⟨x, hx, hcarries⟩ := List.countP_pos_iff.1 (Nat.pos_of_ne_zero hnone)
    have hsound : u.tallies[g].sound = true := h x hx g (by simpa using hcarries)
    rw [hsound]
    exact raisedBy_sound _ _ _ hsound

/-- A state whose check codes are those of another. -/
def SameChecks (u v : State) : Prop := v.petSound = u.petSound ∧ ∀ g : Group, v.tallies[g].sound = u.tallies[g].sound

theorem soundGroup_of_sameChecks {u v : State} (h : SameChecks u v) {group : Option Group} (hs : SoundGroup group u) :
    SoundGroup group v := fun g hg => (h.2 g).trans (hs g hg)

theorem flushFault_of_sameChecks {u v : State} (h : SameChecks u v) {pet before : List PetEntry} {fault : GateFault}
    (hf : FlushFault pet before fault u) : FlushFault pet before fault v := by
  obtain ⟨hslots, hgroups⟩ := h
  obtain ⟨x, after, hsplit, hbefore, hx⟩ := hf
  refine ⟨x, after, hsplit, fun y hy => ?_, ?_⟩
  · obtain ⟨hread, hsound⟩ := hbefore y hy
    exact ⟨by rw [hslots]; exact hread, soundGroup_of_sameChecks ⟨hslots, hgroups⟩ hsound⟩
  · rw [hslots]
    simp only [hgroups]
    exact hx

/-- Once a fault has been found, a flush only empties the tracker (R68, R116). -/
theorem flush_afterFault (notify : Option Port) {e : Course} (h : e.found ≠ none) :
    flush notify e = { state := { e.state with pet := [], ring := [] }, found := e.found } := by
  rw [flush, flushEntries_afterFault _ _ _ h]
  rfl

/-- A flush that notifies no one, up to the first wrong check code (R62, R68, R116). -/
theorem flush_silentStopped {before : List PetEntry} {fault : GateFault} {e : Course} (h : e.found = none)
    (hfault : FlushFault e.state.pet before fault e.state) :
    (flush none e).found = some fault ∧
      (flush none e).state = { e.state with tallies := (flush none e).state.tallies, pet := [], ring := [] } ∧
      ∀ g : Group, (flush none e).state.tallies[g] =
        raisedBy .flushed (carrying PetEntry.group g before) e.state.tallies[g] := by
  obtain ⟨hfound, hstate, hcounts⟩ := flushEntries_silentStopped e.state.pet before fault e h hfault
  refine ⟨hfound, ?_, hcounts⟩
  simp only [flush, Course.map]
  rw [hstate]

/-! ## A line loss (R13, R62, R64, R157, R190, R201) -/

/-- What a line loss at `p` leaves, with the groups as tallied and the notices of the flushed entries offered (R13, R64). -/
def lossOf (p : Port) (u : State) (tallies : Vector (Checked Counters) 32) (flushed : List PetEntry) : State :=
  (({ u with tallies := tallies, pet := [], ring := [] } : State).setPort p ((u.port p).lose u.now)).onPort p.other
    fun q => (flushed.filter fun x => x.notice && decide (x.port = p.other)).foldl (noticed u) q

/-- The course of a line loss up to its halt (R13, R64). -/
def lossCourse (p : Port) (u : State) : Course :=
  flush (some p.other) ((Course.of (u.onPort p (PortState.lose u.now))).tallyQueue .lineLost (u.port p).forwardLost)

/-- A course that has reached the loss of `p` with the given groups, before the flush. -/
def Lost (p : Port) (u : State) (e : Course) : Prop :=
  e.state = { u.onPort p (PortState.lose u.now) with tallies := e.state.tallies }

theorem lost_told {p : Port} {u : State} {e e' : Course} (hlost : Lost p u e) (flushed : List PetEntry)
    (htold : e'.state = ({ e.state with tallies := e'.state.tallies } : State).setPort p.other
      ((flushed.filter fun x => x.notice && decide (x.port = p.other)).foldl (noticed e.state) (e.state.port p.other))) :
    (e'.map fun s => { s with pet := [], ring := [] }).state = lossOf p u e'.state.tallies flushed := by
  rw [Lost] at hlost
  simp only [Course.map]
  rw [htold, hlost]
  cases p <;> rfl

theorem lost_untold {p : Port} {u : State} {e : Course} (hlost : Lost p u e) :
    (e.map fun s => { s with pet := [], ring := [] }).state = lossOf p u e.state.tallies [] := by
  rw [Lost] at hlost
  simp only [Course.map]
  rw [hlost]
  cases p <;> rfl

/-- What the tallies of a line loss come to: line lost for the removed telegrams, flushed for the flushed entries (R13, R62). -/
def LossCounts (u : State) (tallies : Vector (Checked Counters) 32) (removed : List Forwarded) (flushed : List PetEntry) : Prop :=
  ∀ g : Group, tallies[g] = raisedBy .flushed (carrying PetEntry.group g flushed)
    (raisedBy .lineLost (carrying Forwarded.group g removed) u.tallies[g])

/-- The line lost tallies over sound groups (R13). -/
theorem lost_tallied {p : Port} {u : State} (hsound : ∀ x ∈ (u.port p).forwardLost, SoundGroup x.group u) :
    let e := (Course.of (u.onPort p (PortState.lose u.now))).tallyQueue .lineLost (u.port p).forwardLost
    e.found = none ∧ Lost p u e ∧ SameChecks u e.state ∧ e.state.pet = u.pet ∧
      ∀ g : Group, e.state.tallies[g] = raisedBy .lineLost (carrying Forwarded.group g (u.port p).forwardLost) u.tallies[g] := by
  intro e
  obtain ⟨hfound, hstate, hcounts⟩ := tallyQueue_sound .lineLost (u.port p).forwardLost
    (Course.of (u.onPort p (PortState.lose u.now))) rfl hsound
  refine ⟨hfound, hstate, ⟨by rw [hstate]; rfl, fun g => ?_⟩, by rw [hstate]; rfl, hcounts⟩
  rw [hcounts g]
  exact raisedBy_sound_eq hsound _ g

theorem lossCourse_sound {p : Port} {u : State} (hlost : ∀ x ∈ (u.port p).forwardLost, SoundGroup x.group u) (hread : SoundPet u)
    (hpet : ∀ x ∈ u.pet, SoundGroup x.group u) :
    ∃ tallies, LossCounts u tallies (u.port p).forwardLost u.pet ∧
      lossCourse p u = { state := lossOf p u tallies u.pet, found := none } := by
  obtain ⟨hfound, hreached, hsame, hpet', hcounts⟩ := lost_tallied hlost
  obtain ⟨hfound', htold, hcounts'⟩ := flushEntries_told p.other u.pet _ hfound
    (fun x hx => by rw [hsame.1]; exact hread x hx) fun x hx => soundGroup_of_sameChecks hsame (hpet x hx)
  refine ⟨_, fun g => (hcounts' g).trans (by rw [hcounts g]), ?_⟩
  rw [← lost_told hreached u.pet htold, lossCourse, flush, hpet']
  simp only [Course.map, hfound']

theorem lossCourse_queueFault {p : Port} {u : State} {before : List Forwarded} {g : Group}
    (hfault : QueueFault (u.port p).forwardLost before g u) :
    ∃ tallies, LossCounts u tallies before [] ∧
      lossCourse p u = { state := lossOf p u tallies [], found := some (.tallyStore g) } := by
  obtain ⟨hfound, hstate, hcounts⟩ := tallyQueue_stopped .lineLost (u.port p).forwardLost before g
    (Course.of (u.onPort p (PortState.lose u.now))) rfl hfault
  refine ⟨_, hcounts, ?_⟩
  rw [← lost_untold hstate, lossCourse, flush, flushEntries_afterFault _ _ _ (by rw [hfound]; simp)]
  simp only [Course.map, hfound]

theorem lossCourse_flushFault {p : Port} {u : State} {before : List PetEntry} {fault : GateFault}
    (hlost : ∀ x ∈ (u.port p).forwardLost, SoundGroup x.group u) (hfault : FlushFault u.pet before fault u) :
    ∃ tallies, LossCounts u tallies (u.port p).forwardLost before ∧
      lossCourse p u = { state := lossOf p u tallies before, found := some fault } := by
  obtain ⟨hfound, hreached, hsame, hpet', hcounts⟩ := lost_tallied hlost
  obtain ⟨hfound', htold, hcounts'⟩ := flushEntries_toldStopped p.other u.pet before fault _ hfound
    (flushFault_of_sameChecks hsame hfault)
  refine ⟨_, fun g => (hcounts' g).trans (by rw [hcounts g]), ?_⟩
  rw [← lost_told hreached before htold, lossCourse, flush, hpet']
  simp only [Course.map, hfound']

/-- A halt leaves a pending restart pending, and makes none (R198). -/
theorem haltOn_restarting (fault : GateFault) (u : State) (r : PendingRestart) :
    (haltOn fault u).slot = .restarting r ↔ u.slot = .restarting r := by
  unfold haltOn
  split
  · cases hslot : u.slot with
    | validating c => rw [enterHalted_commit fault u c hslot, endCommit_fields]; simp
    | idle => rw [enterHalted_noCommit fault u (by rw [hslot]; decide)]; simp [clearForward, hslot]
    | restarting r' => rw [enterHalted_noCommit fault u (by rw [hslot]; simp [Slot.state])]; simp [clearForward, hslot]
  · rfl

theorem finish_restarting (e : Course) (r : PendingRestart) : e.finish.slot = .restarting r ↔ e.state.slot = .restarting r := by
  unfold Course.finish
  split
  · rfl
  · exact haltOn_restarting _ _ r

/-- A restart that waits on the lost port is carried out (R201). -/
def restartAt (p : Port) (m : State) : State :=
  match m.slot with
  | .restarting r => if r.port = p then carryOutRestart m else m
  | _ => m

theorem restartAt_other {p : Port} {m : State} (h : ∀ r, m.slot = .restarting r → r.port ≠ p) : restartAt p m = m := by
  unfold restartAt
  split
  case h_1 r hslot => exact if_neg (h r hslot)
  case h_2 => rfl

theorem restartAt_same {p : Port} {m : State} {r : PendingRestart} (hslot : m.slot = .restarting r) (hport : r.port = p) :
    restartAt p m = restarted m := by
  rw [restartAt, hslot]
  exact if_pos hport

/-- A line loss ends at the halt its course calls for, and a restart that waits on the lost port is carried out then
(R116, R201; log entry 12). -/
theorem loseLine_eq (p : Port) (u : State) : loseLine p u = restartAt p (lossCourse p u).finish := rfl

theorem lossOf_slot (p : Port) (u : State) (tallies : Vector (Checked Counters) 32) (flushed : List PetEntry) :
    (lossOf p u tallies flushed).slot = u.slot := rfl

/-- Settles O30: the course of the loss, then a restart that waits there; a REPLY of the same moment finds the tracker empty. -/
theorem lineLoss : Obligations.LineLoss := by
  intro w p s start hrun hup htiming u q lost own notices after counts ends
  have hport : u.port p = q := by simp [u, q]
  have hpet : u.pet = s.pet := by simp [u]
  have hlost : lost = (u.port p).forwardLost := by
    rw [hport]
    rfl
  have hafter : after = lossOf p u := by
    funext tallies flushed
    simp only [lossOf, hport]
    rfl
  have hexec : exec (.lineLoss w p) s = .next (loseLine p u) := by
    simp only [exec, execLineLoss, lapse_inReset, lapse_port, hrun, hup, htiming]
    rfl
  have hends {tallies : Vector (Checked Counters) 32} {flushed : List PetEntry} {found : Option GateFault}
      (h : lossCourse p u = { state := lossOf p u tallies flushed, found := found }) :
      ends ({ state := lossOf p u tallies flushed, found := found } : Course).finish := by
    rw [← h]
    have hslot (r : PendingRestart) : (lossCourse p u).finish.slot = .restarting r ↔ s.slot = .restarting r := by
      rw [finish_restarting, h, lossOf_slot, show u.slot = s.slot by simp [u]]
    exact ⟨fun hother => hexec.trans (by rw [loseLine_eq, restartAt_other fun r hr => hother r ((hslot r).1 hr)]),
      fun r hr hport' => hexec.trans (by rw [loseLine_eq, restartAt_same ((hslot r).2 hr) hport'])⟩
  rw [hlost, hafter, ← hpet]
  refine ⟨fun hread hqueue hexchanges => ?_, fun before g hfault => ?_, fun before fault hqueue hfault => ?_, ?_⟩
  · obtain ⟨tallies, hcounts, hcourse⟩ := lossCourse_sound hqueue hread hexchanges
    exact ⟨tallies, hcounts, hends hcourse⟩
  · obtain ⟨tallies, hcounts, hcourse⟩ := lossCourse_queueFault hfault
    exact ⟨tallies, _, hcounts, haltOn_haltsIfServing _ _, hends hcourse⟩
  · obtain ⟨tallies, hcounts, hcourse⟩ := lossCourse_flushFault hqueue hfault
    exact ⟨tallies, _, hcounts, haltOn_haltsIfServing _ _, hends hcourse⟩
  · intro m w' rest t i e hloss hframed hclassified v htreated haction hclear hrate hgroup
    rw [hexec] at hloss
    cases hloss
    obtain ⟨hempty, hring⟩ := loseLine_empty p u
    have hnone : v.pet = [] := (received_pet ..).trans hempty
    have hunknown : v.ring = [] := by simpa [v, received] using hring
    have hkind : t.kind = .reply := hframed.2.2.1
    have hread : SoundPet v := fun x hx => by
      rw [hnone] at hx
      cases hx
    have hunanswered : ∀ x ∈ v.pet, ¬(x.key = replyKey t ∧ x.port = p.other) := fun x hx => by
      rw [hnone] at hx
      cases hx
    have hends : EndsAt p e t v .unsolicited :=
      ⟨⟨⟨by rw [haction]; decide, hclear, hrate.imp_right And.left⟩, haction, hkind, hread⟩, hunanswered,
        by rw [hunknown]; exact List.not_mem_nil⟩
    exact crosses_discarded (x := .unsolicited) ⟨.inr hframed, hclassified⟩ htreated hgroup (by rintro ⟨⟩) hends

/-! ## The completion of a commit (R81, R95, R96) -/

/-- What the completion of a commit leaves before its end, with the groups as tallied (R95, R96). -/
def completedTo (c : CommitContext) (u : State) (tallies : Vector (Checked Counters) 32) : State :=
  { heldIn c.hold c.hold (swapBanks u) with
    tallies := tallies, pet := if c.keep then u.pet else [], ring := if c.keep then u.ring else [] }

/-- The telegrams and the exchanges that a completion removes (R95). -/
def heldBy (c : CommitContext) (u : State) : List Forwarded := if c.hold then u.portF.forwardQ ++ u.portC.forwardQ else []

def flushedBy (c : CommitContext) (u : State) : List PetEntry := if c.keep then [] else u.pet

/-- The held tallies and the flush of a completion (R95, R96). -/
def commitCourse (c : CommitContext) (u : State) : Course :=
  if c.keep then holdNamed c.hold c.hold (Course.of (swapBanks u))
  else flush none (holdNamed c.hold c.hold (Course.of (swapBanks u)))

/-- What the tallies of a completion come to (R62, R108). -/
def CommitCounts (u : State) (tallies : Vector (Checked Counters) 32) (held : List Forwarded) (gone : List PetEntry) : Prop :=
  ∀ g : Group, tallies[g] = raisedBy .flushed (carrying PetEntry.group g gone)
    (raisedBy .held (carrying Forwarded.group g held) u.tallies[g])

/-- The queues that the HOLD option names, in the order of the held tallies (R108). -/
theorem heldBy_eq (c : CommitContext) (u : State) :
    (if c.hold then (Course.of (swapBanks u)).state.portF.forwardQ else []) ++
      (if c.hold then (Course.of (swapBanks u)).state.portC.forwardQ else []) = heldBy c u := by
  unfold heldBy
  cases c.hold <;> rfl

/-- The held tallies of a completion over sound groups (R108). -/
theorem held_tallied {c : CommitContext} {u : State} (hheld : ∀ x ∈ heldBy c u, SoundGroup x.group u) :
    let e := holdNamed c.hold c.hold (Course.of (swapBanks u))
    e.found = none ∧ e.state = { heldIn c.hold c.hold (swapBanks u) with tallies := e.state.tallies } ∧ SameChecks u e.state ∧
      ∀ g : Group, e.state.tallies[g] = raisedBy .held (carrying Forwarded.group g (heldBy c u)) u.tallies[g] := by
  intro e
  obtain ⟨hfound, hstate, hcounts⟩ := holdNamed_sound c.hold c.hold (Course.of (swapBanks u)) rfl
    (by rw [heldBy_eq]; exact hheld)
  rw [heldBy_eq] at hcounts
  refine ⟨hfound, hstate, ⟨by rw [hstate]; rfl, fun g => ?_⟩, hcounts⟩
  rw [hcounts g]
  exact raisedBy_sound_eq hheld _ g

/-- The flush of a completion leaves what `completedTo` says (R62, R95). -/
theorem completedTo_flushed {c : CommitContext} {u : State} {e e' : Course} (hkeep : c.keep = false)
    (hstate : e.state = { heldIn c.hold c.hold (swapBanks u) with tallies := e.state.tallies })
    (hflushed : e'.state = { e.state with tallies := e'.state.tallies, pet := [], ring := [] }) :
    e'.state = completedTo c u e'.state.tallies := by
  rw [hflushed, hstate, completedTo, hkeep]
  rfl

theorem completedTo_kept {c : CommitContext} {u : State} {e : Course} (hkeep : c.keep = true)
    (hstate : e.state = { heldIn c.hold c.hold (swapBanks u) with tallies := e.state.tallies }) :
    e.state = completedTo c u e.state.tallies := by
  rw [hstate, completedTo, hkeep]
  rfl

theorem commitCourse_sound {c : CommitContext} {u : State} (hheld : ∀ x ∈ heldBy c u, SoundGroup x.group u)
    (hflushed : ∀ x ∈ flushedBy c u, u.petSound[x.slot] = true ∧ SoundGroup x.group u) :
    ∃ tallies, CommitCounts u tallies (heldBy c u) (flushedBy c u) ∧
      commitCourse c u = { state := completedTo c u tallies, found := none } := by
  obtain ⟨hfound, hstate, hsame, hcounts⟩ := held_tallied hheld
  unfold commitCourse flushedBy at *
  cases hkeep : c.keep with
  | true =>
    refine ⟨_, hcounts, ?_⟩
    rw [← completedTo_kept hkeep hstate, if_pos rfl, ← hfound]
  | false =>
    rw [hkeep, if_neg Bool.false_ne_true] at hflushed
    have hpet : (holdNamed c.hold c.hold (Course.of (swapBanks u))).state.pet = u.pet := by rw [hstate]; rfl
    obtain ⟨hfound', hstate', hcounts'⟩ := flush_silent _ hfound
      (fun x hx => by rw [hpet] at hx; rw [hsame.1]; exact (hflushed x hx).1)
      fun x hx => by rw [hpet] at hx; exact soundGroup_of_sameChecks hsame (hflushed x hx).2
    rw [hpet] at hcounts'
    refine ⟨_, fun g => (hcounts' g).trans (by rw [hcounts g]; rfl), ?_⟩
    rw [← completedTo_flushed hkeep hstate hstate', if_neg Bool.false_ne_true, ← hfound']

theorem commitCourse_queueFault {c : CommitContext} {u : State} {before : List Forwarded} {g : Group}
    (hfault : QueueFault (heldBy c u) before g u) :
    ∃ tallies, CommitCounts u tallies before [] ∧
      commitCourse c u = { state := completedTo c u tallies, found := some (.tallyStore g) } := by
  obtain ⟨hfound, hstate, hcounts⟩ := holdNamed_stopped c.hold c.hold before g (Course.of (swapBanks u)) rfl
    (by rw [heldBy_eq]; exact hfault)
  refine ⟨_, hcounts, ?_⟩
  unfold commitCourse
  cases hkeep : c.keep with
  | true => rw [← completedTo_kept hkeep hstate, if_pos rfl, ← hfound]
  | false =>
    rw [if_neg Bool.false_ne_true, flush_afterFault none (by rw [hfound]; simp), hfound]
    simp only [completedTo, hkeep]
    rw [hstate]
    rfl

theorem commitCourse_flushFault {c : CommitContext} {u : State} {before : List PetEntry} {fault : GateFault}
    (hheld : ∀ x ∈ heldBy c u, SoundGroup x.group u) (hfault : FlushFault (flushedBy c u) before fault u) :
    ∃ tallies, CommitCounts u tallies (heldBy c u) before ∧
      commitCourse c u = { state := completedTo c u tallies, found := some fault } := by
  obtain ⟨hfound, hstate, hsame, hcounts⟩ := held_tallied hheld
  unfold commitCourse flushedBy at *
  cases hkeep : c.keep with
  | true =>
    obtain ⟨x, after, hsplit, -⟩ := hfault
    rw [hkeep, if_pos rfl] at hsplit
    exact absurd hsplit.symm (by simp)
  | false =>
    rw [hkeep, if_neg Bool.false_ne_true] at hfault
    have hpet : (holdNamed c.hold c.hold (Course.of (swapBanks u))).state.pet = u.pet := by rw [hstate]; rfl
    obtain ⟨hfound', hstate', hcounts'⟩ := flush_silentStopped hfound
      (by rw [hpet]; exact flushFault_of_sameChecks hsame hfault)
    refine ⟨_, fun g => (hcounts' g).trans (by rw [hcounts g]), ?_⟩
    rw [← completedTo_flushed hkeep hstate hstate', if_neg Bool.false_ne_true, ← hfound']

/-- The state that the header of a completion answer shows (R96). -/
theorem completeCommit_eq (c : CommitContext) (u : State) :
    completeCommit c u = ((commitCourse c u).map (endCommit c .completed (halfOfNat c.inUse)
      (if (commitCourse c u).found = none then (commitCourse c u).state.gate else .halted))).finish := rfl

theorem endCommit_gate (c : CommitContext) (result : CommitResult) (detail : Half) (shown : GateState) (s : State) :
    (endCommit c result detail shown s).gate = s.gate := by
  rw [endCommit_fields]
  rfl

/-- Settles O35: the course of the completion, then the end of the commit, then the halt. -/
theorem validationCompletes : Obligations.ValidationCompletes := by
  intro w s c hslot hpassed u removed flushed counts after halts
  have hexec : exec (.validationComplete w) s = .next (completeCommit c u) := by
    simp only [exec, execValidationComplete, lapse_slot, hslot, hpassed]
    rfl
  have hgate : u.gate = s.gate := by simp [u]
  have hremoved : removed = heldBy c u := by simp [removed, heldBy, u]
  have hflushed : flushed = flushedBy c u := by simp [flushed, flushedBy, u]
  have hafter : after = completedTo c u := by
    funext tallies
    simp only [after, completedTo, heldIn, swapBanks, u, lapse_activeBank, lapse_generation, lapse_profiles, lapse_holdDown,
      lapse_holdUp, lapse_portC, lapse_portF, lapse_pet, lapse_ring]
    rfl
  have hhalts {fault : GateFault} {tallies : Vector (Checked Counters) 32} (hserving : s.gate = .serving)
      (h : commitCourse c u = { state := completedTo c u tallies, found := some fault }) : halts fault tallies := by
    refine ⟨endCommit c .completed (halfOfNat c.inUse) .halted (completedTo c u tallies), _, hexec, ?_, ?_⟩
    · rw [hafter]
      exact endCommit_ended _ _ _ _ _
    · rw [completeCommit_eq, h, if_neg (by simp)]
      exact haltOn_halts _ _ ((endCommit_gate ..).trans (hgate.trans hserving))
  rw [hremoved, hflushed]
  refine ⟨fun hheld hgone => ?_, fun before g hserving hfault => ?_, fun before fault hserving hheld hfault => ?_⟩
  · obtain ⟨tallies, hcounts, hcourse⟩ := commitCourse_sound hheld hgone
    refine ⟨tallies, _, hcounts, hexec, ?_⟩
    rw [hafter, completeCommit_eq, hcourse, if_pos rfl, ← hgate]
    exact endCommit_ended _ _ _ _ _
  · obtain ⟨tallies, hcounts, hcourse⟩ := commitCourse_queueFault hfault
    exact ⟨tallies, hcounts, hhalts hserving hcourse⟩
  · obtain ⟨tallies, hcounts, hcourse⟩ := commitCourse_flushFault hheld hfault
    exact ⟨tallies, hcounts, hhalts hserving hcourse⟩

end Sys2Proof.Proofs
end

section
/-! The parameter checks of the orders whose parameters have a fixed sequence (O40), and what an order's arrival leaves as it was. -/

namespace Sys2Proof.Proofs

open Sys2Proof.Machine Sys2Proof.Laws Sys2Proof.Safety

set_option Elab.async false

/-! ## An order's arrival -/

@[simp] theorem arrived_now (w : Since) (p : Port) (s : State) : (arrived w p s).now = s.now + w.elapsed := by simp [arrived]

@[simp] theorem arrived_sampled (w : Since) (p : Port) (s : State) : (arrived w p s).sampled = s.sampled := by simp [arrived]

@[simp] theorem arrived_fault (w : Since) (p : Port) (s : State) : (arrived w p s).fault = s.fault := by simp [arrived]

@[simp] theorem arrived_activeBank (w : Since) (p : Port) (s : State) : (arrived w p s).activeBank = s.activeBank := by simp [arrived]

@[simp] theorem arrived_generation (w : Since) (p : Port) (s : State) : (arrived w p s).generation = s.generation := by simp [arrived]

@[simp] theorem arrived_pet (w : Since) (p : Port) (s : State) : (arrived w p s).pet = s.pet := by simp [arrived]

@[simp] theorem arrived_ring (w : Since) (p : Port) (s : State) : (arrived w p s).ring = s.ring := by simp [arrived]

@[simp] theorem arrived_profiles (w : Since) (p : Port) (s : State) : (arrived w p s).profiles = s.profiles := by simp [arrived]

@[simp] theorem arrived_holdDown (w : Since) (p : Port) (s : State) : (arrived w p s).holdDown = s.holdDown := by simp [arrived]

@[simp] theorem arrived_holdUp (w : Since) (p : Port) (s : State) : (arrived w p s).holdUp = s.holdUp := by simp [arrived]

@[simp] theorem arrived_captureSeq (w : Since) (p : Port) (s : State) : (arrived w p s).captureSeq = s.captureSeq := by simp [arrived]

@[simp] theorem arrived_overflow (w : Since) (p : Port) (s : State) : (arrived w p s).overflow = s.overflow := by simp [arrived]

@[simp] theorem arrived_settings (w : Since) (p : Port) (s : State) : (arrived w p s).settings = s.settings := by simp [arrived]

@[simp] theorem arrived_slot (w : Since) (p : Port) (s : State) : (arrived w p s).slot = s.slot := by simp [arrived]

@[simp] theorem arrived_outcome (w : Since) (p : Port) (s : State) : (arrived w p s).outcome = s.outcome := by simp [arrived]

@[simp] theorem arrived_words (w : Since) (p : Port) (s : State) : (arrived w p s).words = s.words := by simp [arrived]

@[simp] theorem arrived_station (w : Since) (p : Port) (s : State) : (arrived w p s).station = s.station := by simp [arrived]

@[simp] theorem arrived_line (w : Since) (p p' : Port) (s : State) : ((arrived w p s).port p').line = (s.port p').line := by
  rw [arrived, port_onPort]
  split
  case isTrue h => simp [h]
  case isFalse => simp

@[simp] theorem arrived_forwardQ (w : Since) (p p' : Port) (s : State) :
    ((arrived w p s).port p').forwardQ = (s.port p').forwardQ := by
  rw [arrived, port_onPort]
  split
  case isTrue h => simp [h]
  case isFalse => simp

theorem arrived_port_other (w : Since) (p : Port) (s : State) : (arrived w p s).port p.other = s.port p.other := by
  simp [arrived]

/-- Outside STATUS and RESTART an order is executed by a SERVING gate (R146). -/
theorem admitted_serving {k : OrderCode} {args : List Byte} {p : Port} {h : OrderHead} {s : State} (ha : Admitted k args p h s)
    (hstatus : k ≠ .status) (hrestart : k ≠ .restart) : s.gate = .serving := by
  obtain ⟨hgate, -⟩ := ha
  exact hgate.resolve_right fun h => h.elim hstatus hrestart

/-- An admitted order whose execution reads a wrong check code halts a SERVING gate (R156). -/
theorem order_halts_serving {k : OrderCode} {w : Since} {p : Port} {h : OrderHead} {args : List Byte} {s : State} (hh : Heard p h s)
    (ha : Admitted k args p h s) {fault : GateFault} {v : State} (hr : runOrder k p h args (arrived w p s) = .halts fault v)
    (hgate : v.gate = .serving) : ∃ t, exec (orderInstr k w p h args) s = .next t ∧ Halts fault v t :=
  ⟨_, order_halts k w p h args s hh ha hr, haltOn_halts fault v hgate⟩

/-! ## Checks in a fixed sequence (R150, R163) -/

/-- After the bytes `seen` of an order's parameters, a check faults where `firstFault` says for the parameters that are left. -/
def Finds {α : Type} (args seen : List Byte) (xs : List Parameter) (check : Except Nat α) : Prop :=
  ∀ rest pos, args = seen ++ rest → firstFault seen xs rest = some pos → check = .error pos

theorem byteAt_next {args seen rest : List Byte} {n : Nat} (hargs : args = seen ++ rest) (hn : n = seen.length + 1) :
    byteAt args n = (rest.head?).elim (.error n) .ok := by
  subst hargs hn
  rw [byteAt, Nat.add_sub_cancel, List.getElem?_append_right le_rfl, Nat.sub_self]
  cases rest <;> rfl

/-- A byte whose every value is in range (R163). -/
theorem finds_anyByte {α : Type} {args seen : List Byte} {xs : List Parameter} {n : Nat} {next : Byte → Except Nat α}
    (hn : n = seen.length + 1) (hnext : ∀ b, Finds args (seen ++ [b]) xs (next b)) :
    Finds args seen (.bytes 1 :: xs) (byteAt args n >>= next) := by
  intro rest pos hargs hfault
  rw [byteAt_next hargs hn]
  cases rest with
  | nil =>
    simp only [firstFault, Parameter.size, List.length_nil, zero_lt_one, if_true, Option.some.injEq] at hfault
    subst hfault hn
    rfl
  | cons b rest =>
    exact hnext b rest pos (by rw [hargs]; simp) (by simpa [firstFault, Parameter.size, Parameter.inRange] using hfault)

/-- A byte in a range (R163). -/
theorem finds_byte {α : Type} {args seen : List Byte} {xs : List Parameter} {low high n : Nat} {ok : Byte → Bool}
    {next : Byte → Except Nat α} (hn : n = seen.length + 1)
    (hok : ∀ b, ok b = (decide (low ≤ b.toNat) && decide (b.toNat ≤ high))) (hnext : ∀ b, Finds args (seen ++ [b]) xs (next b)) :
    Finds args seen (.byte low high :: xs) (byteAt args n >>= fun b => demand (ok b) n >>= fun _ => next b) := by
  intro rest pos hargs hfault
  rw [byteAt_next hargs hn]
  cases rest with
  | nil =>
    simp only [firstFault, Parameter.size, List.length_nil, zero_lt_one, if_true, Option.some.injEq] at hfault
    subst hfault hn
    rfl
  | cons b rest =>
    change (demand (ok b) n >>= fun _ => next b) = _
    rw [hok b, demand]
    simp only [firstFault, Parameter.size, Parameter.inRange, List.length_cons, List.take_succ_cons, List.take_zero,
      List.all_cons, List.all_nil, Bool.and_true, List.drop_succ_cons, List.drop_zero] at hfault
    rw [if_neg (by omega)] at hfault
    split at hfault
    case isTrue hin =>
      rw [if_pos hin]
      exact hnext b rest pos (by rw [hargs]; simp) hfault
    case isFalse hout =>
      cases hfault
      rw [if_neg hout, hn]
      rfl

/-- A count that, with the index in the byte before it, stays within a table (R169, R173, R181). -/
theorem finds_count {α : Type} {args seen : List Byte} {first : Byte} {xs : List Parameter} {size n : Nat} {next : Byte → Except Nat α}
    (hn : n = seen.length + 2) (hnext : ∀ b, Finds args (seen ++ [first] ++ [b]) xs (next b)) :
    Finds args (seen ++ [first]) (.count size :: xs) (byteAt args n >>= fun b =>
      demand (decide (1 ≤ b.toNat) && decide (b.toNat ≤ 16) && decide (first.toNat + b.toNat ≤ size)) n >>= fun _ => next b) := by
  intro rest pos hargs hfault
  have hn' : n = (seen ++ [first]).length + 1 := by simpa using hn
  rw [byteAt_next hargs hn']
  cases rest with
  | nil =>
    simp only [firstFault, Parameter.size, List.length_nil, zero_lt_one, if_true, Option.some.injEq] at hfault
    subst hfault hn'
    rfl
  | cons b rest =>
    change (demand _ n >>= fun _ => next b) = _
    rw [demand]
    simp only [firstFault, Parameter.size, Parameter.inRange, List.length_cons, List.take_succ_cons, List.take_zero,
      List.getLast?_concat, List.drop_succ_cons, List.drop_zero] at hfault
    rw [if_neg (by omega)] at hfault
    split at hfault
    case isTrue hin =>
      rw [if_pos hin]
      exact hnext b rest pos (by rw [hargs]; simp) hfault
    case isFalse hout =>
      cases hfault
      rw [if_neg hout, hn']
      rfl

/-- A two-byte quantity in a range (R163, R174). -/
theorem finds_half {α : Type} {args seen : List Byte} {xs : List Parameter} {low high n : Nat} {next : Half → Except Nat α}
    (hn : n = seen.length + 1) (hnext : ∀ hi lo, Finds args (seen ++ [hi, lo]) xs (next (halfOf hi lo))) :
    Finds args seen (.half low high :: xs) (halfAt args n >>= fun x =>
      demand (decide (low ≤ x.toNat) && decide (x.toNat ≤ high)) n >>= fun _ => next x) := by
  intro rest pos hargs hfault
  rw [halfAt]
  cases rest with
  | nil =>
    rw [byteAt_next hargs hn]
    simp only [firstFault, Parameter.size, List.length_nil, Nat.zero_lt_succ, if_true, Option.some.injEq] at hfault
    subst hfault hn
    rfl
  | cons hi rest =>
    have hhi : byteAt args n = .ok hi := byteAt_next hargs hn
    have hargs' : args = (seen ++ [hi]) ++ rest := by rw [hargs]; simp
    have hlo := byteAt_next (n := n + 1) hargs' (by simp [hn])
    rw [hhi, hlo]
    cases rest with
    | nil =>
      simp only [firstFault, Parameter.size, List.length_cons, List.length_nil, Nat.reduceLT, Nat.reduceAdd, if_true,
        Option.some.injEq] at hfault
      subst hfault hn
      rfl
    | cons lo rest =>
      change (demand (decide (low ≤ (halfOf hi lo).toNat) && decide ((halfOf hi lo).toNat ≤ high)) n >>= fun _ =>
        next (halfOf hi lo)) = _
      rw [demand, halfOf_toNat]
      simp only [firstFault, Parameter.size, Parameter.inRange, List.length_cons, List.take_succ_cons, List.take_zero,
        List.drop_succ_cons, List.drop_zero] at hfault
      rw [if_neg (by omega)] at hfault
      split at hfault
      case isTrue hin =>
        rw [if_pos hin]
        exact hnext hi lo rest pos (by rw [hargs]; simp) hfault
      case isFalse hout =>
        cases hfault
        rw [if_neg hout, hn]
        rfl

/-- A group set, its four bytes in any values (R163, R177). -/
theorem finds_groupSet {α : Type} {args : List Byte} {xs : List Parameter} {next : GroupSet → Except Nat α}
    (hnext : ∀ x3 x2 x1 x0, Finds args [x3, x2, x1, x0] xs (next (countOf x3 x2 x1 x0))) :
    Finds args [] (.bytes 4 :: xs) (groupSetAt args 1 >>= next) := by
  intro rest pos hargs hfault
  rw [List.nil_append] at hargs
  subst hargs
  rcases args with _ | ⟨x3, _ | ⟨x2, _ | ⟨x1, _ | ⟨x0, rest⟩⟩⟩⟩
  case cons.cons.cons.cons =>
    refine hnext x3 x2 x1 x0 rest pos rfl ?_
    have hlong : ¬rest.length + 1 + 1 + 1 + 1 < 4 := by omega
    simpa [firstFault, Parameter.size, Parameter.inRange, hlong] using hfault
  all_goals
    cases hfault
    rfl

/-- No byte follows the last parameter (R163). -/
theorem finds_end {args seen : List Byte} {n : Nat} (hn : n = seen.length) : Finds args seen [] (noMore args n) := by
  intro rest pos hargs hfault
  rw [firstFault] at hfault
  split at hfault
  case isTrue => cases hfault
  case isFalse hmore =>
    cases hfault
    have hlength := List.length_pos_iff.2 hmore
    rw [noMore, demand, if_neg (by rw [hargs, List.length_append]; simp; omega), hn]

theorem finds_bind {α β : Type} {args seen : List Byte} {xs : List Parameter} {check : Except Nat α} {next : α → Except Nat β}
    (h : Finds args seen xs check) : Finds args seen xs (check >>= next) := by
  intro rest pos hargs hfault
  rw [h rest pos hargs hfault]
  rfl

/-! ## The checks of each order (R164 to R183) -/

theorem noArgs_finds (args : List Byte) : Finds args [] [] (noArgs args) := finds_end rfl

theorem byte_le_one (b : Byte) : (decide (b = 0) || decide (b = 1)) = (decide (0 ≤ b.toNat) && decide (b.toNat ≤ 1)) := by
  rw [Bool.eq_iff_iff]
  simp only [Bool.or_eq_true, Bool.and_eq_true, decide_eq_true_eq]
  bv_omega

theorem byte_one_to_three (b : Byte) :
    (decide (b = 1) || decide (b = 2) || decide (b = 3)) = (decide (1 ≤ b.toNat) && decide (b.toNat ≤ 3)) := by
  rw [Bool.eq_iff_iff]
  simp only [Bool.or_eq_true, Bool.and_eq_true, decide_eq_true_eq]
  bv_omega

theorem directionArgs_finds (args : List Byte) : Finds args [] [.byte 1 3] (directionArgs args) :=
  finds_byte rfl byte_one_to_three fun _ => finds_bind (finds_end rfl)

theorem commitArgs_finds (args : List Byte) : Finds args [] [.byte 0 3] (commitArgs args) :=
  finds_byte rfl (fun b => by simp) fun _ => finds_bind (finds_end rfl)

theorem spanArgs_finds {args : List Byte} {n : Nat} (hn : n < 256) (hpos : 0 < n) :
    Finds args [] [.byte 0 (n - 1), .count n] (spanAt args 1 n >>= fun span => noMore args 2 >>= fun _ => pure span) := by
  simp only [spanAt, bind_assoc, pure_bind]
  refine finds_byte rfl (fun b => ?_) fun first => finds_count (seen := []) rfl fun _ => finds_bind (finds_end rfl)
  simp only [Nat.zero_le, decide_true, Bool.true_and]
  exact decide_eq_decide.2 (by omega)

theorem profileReadArgs_finds (args : List Byte) : Finds args [] [.byte 0 15, .count 16] (profileReadArgs args) :=
  spanArgs_finds (n := 16) (by decide) (by decide)

theorem wordReadArgs_finds (args : List Byte) : Finds args [] [.byte 0 15, .count 16] (wordReadArgs args) :=
  spanArgs_finds (n := 16) (by decide) (by decide)

theorem rulesReadArgs_finds (args : List Byte) : Finds args [] [.byte 0 1, .byte 0 127, .count 128] (rulesReadArgs args) := by
  simp only [rulesReadArgs, spanAt, bind_assoc, pure_bind]
  refine finds_byte rfl byte_le_one fun role => finds_byte rfl (fun b => ?_) fun first =>
    finds_count (seen := [role]) rfl fun _ => finds_bind (finds_end rfl)
  simp only [Nat.zero_le, decide_true, Bool.true_and]
  exact decide_eq_decide.2 (by omega)

theorem profileWriteArgs_finds (args : List Byte) :
    Finds args [] [.byte 0 15, .bytes 1, .byte 1 255, .half 1 1000, .byte 0 1] (profileWriteArgs args) := by
  refine finds_byte rfl (fun b => ?_) fun _ => finds_anyByte rfl fun _ => finds_byte rfl (fun b => ?_) fun _ =>
    finds_half rfl fun _ _ => finds_byte rfl byte_le_one fun _ => finds_bind (finds_end rfl)
  · simp only [Nat.zero_le, decide_true, Bool.true_and]
    exact decide_eq_decide.2 (by omega)
  · have := b.isLt
    simp only [show b.toNat ≤ 255 by omega, decide_true, Bool.and_true]

theorem exchangeListArgs_finds (args : List Byte) : Finds args [] [.bytes 1] (exchangeListArgs args) :=
  finds_anyByte rfl fun _ => finds_bind (finds_end rfl)

theorem snapshotArgs_finds (args : List Byte) : Finds args [] [.bytes 4, .byte 0 1] (snapshotArgs args) := by
  simp only [snapshotArgs, clearAt, bind_assoc, pure_bind]
  exact finds_groupSet fun _ _ _ _ => finds_byte rfl byte_le_one fun _ => finds_bind (finds_end rfl)

theorem groupSetArgs_finds (args : List Byte) : Finds args [] [.bytes 4] (groupSetArgs args) :=
  finds_groupSet fun _ _ _ _ => finds_bind (finds_end rfl)

theorem portCountersArgs_finds (args : List Byte) : Finds args [] [.byte 1 3, .byte 0 1] (portCountersArgs args) := by
  simp only [portCountersArgs, clearAt, bind_assoc, pure_bind]
  exact finds_byte rfl byte_one_to_three fun _ => finds_byte rfl byte_le_one fun _ => finds_bind (finds_end rfl)

/-- An order whose parameters have a fixed sequence is executed to BAD_PARAM at their first fault (R150, R163). -/
theorem runOrder_fault {k : OrderCode} {xs : List Parameter} (hparams : parametersOf k = some xs) {args : List Byte} {pos : Nat}
    (hfault : firstFault [] xs args = some pos) (p : Port) (h : OrderHead) (u : State) :
    runOrder k p h args u = badParam pos u := by
  have found {α : Type} {xs : List Parameter} {check : Except Nat α} (hfinds : Finds args [] xs check)
      (hfault : firstFault [] xs args = some pos) : check = .error pos := hfinds args pos rfl hfault
  cases k <;> cases hparams
  case status | configRead | stageClear | stageClone | abandon | exchangeFlush | captureRead | captureClear | restart =>
    have herror := found (noArgs_finds args) hfault
    simp only [runOrder, runStatus, runConfigRead, runStageClear, runStageClone, runAbandon, runExchangeFlush, runCaptureRead,
      runCaptureClear, runRestart, herror]
  case rulesRead => simp only [runOrder, runRulesRead, found (rulesReadArgs_finds args) hfault]
  case commit => simp only [runOrder, runCommit, found (commitArgs_finds args) hfault]
  case hold => simp only [runOrder, runHold, found (directionArgs_finds args) hfault]
  case release => simp only [runOrder, runRelease, found (directionArgs_finds args) hfault]
  case profileRead => simp only [runOrder, runProfileRead, found (profileReadArgs_finds args) hfault]
  case profileWrite => simp only [runOrder, runProfileWrite, found (profileWriteArgs_finds args) hfault]
  case exchangeList => simp only [runOrder, runExchangeList, found (exchangeListArgs_finds args) hfault]
  case snapshot => simp only [runOrder, runSnapshot, found (snapshotArgs_finds args) hfault]
  case snapshotRead => simp only [runOrder, runSnapshotRead, found (groupSetArgs_finds args) hfault]
  case tallyClear => simp only [runOrder, runTallyClear, found (groupSetArgs_finds args) hfault]
  case portCounters => simp only [runOrder, runPortCounters, found (portCountersArgs_finds args) hfault]
  case wordRead => simp only [runOrder, runWordRead, found (wordReadArgs_finds args) hfault]

/-- BAD_PARAM is the answer at the position, stored, over the arrival alone (R150, R158). -/
theorem order_badParam {k : OrderCode} {w : Since} {p : Port} {h : OrderHead} {args : List Byte} {s : State} (hh : Heard p h s)
    (ha : Admitted k args p h s) {pos : Nat} (hr : runOrder k p h args (arrived w p s) = badParam pos (arrived w p s)) :
    Answers (orderInstr k w p h args) s p h k.byte .badParam (halfOfNat pos) [] true (arrived w p s) := by
  have hstored : storable k.byte .badParam = true := by simp [storable]
  have hanswers := order_answers k w p h args s hh ha hr (by simp)
  rwa [hstored] at hanswers

/-- Settles O40: the fixed sequences by `runOrder_fault`; the three orders that carry a list read a byte at position 1. -/
theorem badParamAtTheFirstFault : Obligations.BadParamAtTheFirstFault := by
  intro k w p h args s hh ha faults
  refine ⟨fun xs pos hparams hfault => order_badParam hh ha (runOrder_fault hparams hfault p h _), fun hlist hempty => ?_⟩
  subst hempty
  refine order_badParam hh ha ?_
  cases k <;> cases hlist
  case configWrite => rfl
  case stageWrite => rfl
  case wordWrite => rfl

end Sys2Proof.Proofs
end

section
/-! Orders on the gate state, rules, exchanges, tallies, captures and words, each executed once (O41, O45 to O48, O51, O54 to O56, O58,
O60). -/

namespace Sys2Proof.Proofs

open Sys2Proof.Machine Sys2Proof.Laws Sys2Proof.Safety

set_option Elab.async false

/-! ## STATUS (R164, R165, R206) -/

/-- The holds, lines and slot as one byte are their sum (R206). -/
theorem statusFlags_eq (holdDown holdUp upC upF : Bool) (slot : SlotState) :
    statusFlags holdDown holdUp upC upF slot =
      byteOf ((if holdDown then 1 else 0) + (if holdUp then 2 else 0) + (if upC then 4 else 0) + (if upF then 8 else 0) +
        16 * (slotCode slot).toNat) := by
  cases slot <;> revert holdDown holdUp upC upF <;> decide

theorem statusData_eq (u : State) :
    statusData u = ((gateCode u.gate :: faultBytes u.fault) ++ [u.station, statusFlags u.holdDown u.holdUp (decide (u.portC.line = .up))
        (decide (u.portF.line = .up)) u.slot.state] ++ outcomeBytes u.outcome) ++
      ([byteOf u.pet.length, byteOf u.ring.length, byteOf u.captures.length] ++ countBytes (heldSet u) ++ halfBytes u.generation) := by
  simp [statusData]

/-- Settles O41: `statusData` field by field. -/
theorem statusReports : Obligations.StatusReports := by
  intro w p h s hh ha u
  refine ⟨heldSet u, fun g => groupSetOf_bit _ g, ?_⟩
  have hanswers := order_answers .status w p h [] s hh ha (show runOrder .status p h [] u = .answered .done 0 (statusData u) u from rfl)
    (by decide)
  refine Eq.mp (congrArg (fun data => Answers (.status w p h []) s p h 0x01 .done 0 data false u) ?_) hanswers
  have hgate : gateCode s.gate = if s.gate = .halted then 2 else 1 := by
    obtain ⟨-, hrunning, -⟩ := (receiving_iff p s).1 hh.1
    cases hg : s.gate with
    | starting => exact absurd hg hrunning
    | serving => rfl
    | halted => rfl
  have hlineC : u.portC.line = s.portC.line := arrived_line w p .c s
  have hlineF : u.portF.line = s.portF.line := arrived_line w p .f s
  rw [statusData_eq, statusFlags_eq, hlineC, hlineF]
  simp only [u, arrived_gate, arrived_fault, arrived_station, arrived_holdDown, arrived_holdUp, arrived_slot, arrived_outcome, arrived_pet,
    arrived_ring, arrived_captures, arrived_generation, hgate, decide_eq_true_eq]
  refine congrArg₂ (· ++ ·) (congrArg₂ (· ++ ·) ?_ ?_) rfl
  · have hslot : 16 * (slotCode s.slot.state).toNat = (match s.slot with | .idle => 0 | .validating _ => 16 | .restarting _ => 32) := by
      cases s.slot <;> rfl
    rw [hslot]
    cases s.fault with
    | none => rfl
    | some fault => cases fault <;> rfl
  · cases s.outcome with
    | none => rfl
    | some x => rfl

theorem noArgs_nil : noArgs [] = .ok () := rfl

/-! ## STAGE_CLEAR and STAGE_CLONE (R88, R89, R170) -/

/-- Settles O45: the fresh bank, and the copy up to the first wrong check code. -/
theorem stageClearAndClone : Obligations.StageClearAndClone := by
  intro w p h s hh u active old
  refine ⟨fun ha => ⟨RuleBank.reset, fun i => by simp [RuleBank.reset], ?_⟩, fun ha hsound => ⟨copyBelow 128 active old, fun i => ?_, ?_⟩,
    fun ha i hbelow hwrong => ⟨copyBelow i.val active old, ?_⟩⟩
  · exact order_answers .stageClear w p h [] s hh ha rfl (by decide)
  · simp [copyBelow]
  · have hruns : runOrder .stageClone p h [] u =
        .answered .done (halfOfNat (inUseCount active)) [] (u.setBank u.stagingBank (copyBelow 128 active old)) := by
      simp only [runOrder, runStageClone, noArgs_nil, corruptRule_none hsound, doneWith, active, old]
    exact order_answers .stageClone w p h [] s hh ha hruns (by decide)
  · have hruns : runOrder .stageClone p h [] u =
        .halts (.ruleStore u.activeBank i) (u.setBank u.stagingBank (copyBelow i.val active old)) := by
      simp only [runOrder, runStageClone, noArgs_nil, corruptRule_first hbelow hwrong, active, old]
    obtain ⟨t, hexec, hhalts⟩ := order_halts_serving hh ha hruns
      (by rw [setBank_gate]; exact (arrived_gate w p s).trans (admitted_serving ha (by decide) (by decide)))
    exact ⟨t, fun j => by simp [copyBelow], hexec, hhalts⟩

/-! ## COMMIT and ABANDON (R90, R93, R102, R103, R105, R155) -/

/-- The option byte of a COMMIT spells its two options (R171, R205). -/
theorem commitArgs_options (hold keep : Bool) :
    commitArgs [byteOf ((if hold then 1 else 0) + (if keep then 2 else 0))] = .ok (hold, keep) := by
  cases hold <;> cases keep <;> rfl

/-- Settles O46: validation's reading of the Staging bank, sound or up to the first wrong check code. -/
theorem commitIsTaken : Obligations.CommitIsTaken := by
  intro w p h s hold keep args hh ha u bank n v
  have hprofiles : u.profiles = s.profiles := arrived_profiles w p s
  refine ⟨fun hsound => ?_, fun i hbelow hwrong => ?_⟩
  · have hruns : runOrder .commit p h args u = .answered .accepted (halfOfNat n) [] v := by
      simp only [runOrder, runCommit, args, commitArgs_options, corruptRule_none hsound, hprofiles, v, n, bank, inUseCount]
    exact order_answers .commit w p h args s hh ha hruns (by decide)
  · have hruns : runOrder .commit p h args u = .halts (.ruleStore u.stagingBank i) v := by
      simp only [runOrder, runCommit, args, commitArgs_options, corruptRule_first hbelow hwrong, hprofiles, v, n, bank, inUseCount]
    exact order_halts_serving hh ha hruns ((arrived_gate w p s).trans (admitted_serving ha (by decide) (by decide)))

/-- Settles O47: the slot decides. -/
theorem abandonEndsTheCommit : Obligations.AbandonEndsTheCommit := by
  intro w p h s hh ha u
  have hslot : u.slot = s.slot := arrived_slot w p s
  refine ⟨fun hidle => ?_, fun c hvalidating => ?_⟩
  · have hruns : runOrder .abandon p h [] u = .answered .notBusy 0 [] u := by
      simp only [runOrder, runAbandon, noArgs_nil, hslot, hidle]
    exact order_answers .abandon w p h [] s hh ha hruns (by decide)
  · have hruns : runOrder .abandon p h [] u = .answered .done 0 [] (endCommit c .abandoned 0 u.gate u) := by
      simp only [runOrder, runAbandon, noArgs_nil, hslot, hvalidating]
      rfl
    refine ⟨_, ?_, order_answers .abandon w p h [] s hh ha hruns (by decide)⟩
    rw [← arrived_gate w p s]
    exact endCommit_ended _ _ _ _ _

/-! ## HOLD and RELEASE (R108, R109, R172) -/

/-- A direction selection spells its directions (R172, R205). -/
theorem directionArgs_selection {down up : Bool} (h : down = true ∨ up = true) :
    directionArgs [byteOf ((if down then 1 else 0) + (if up then 2 else 0))] = .ok (down, up) := by
  cases down <;> cases up
  case false.false => simp at h
  all_goals rfl

/-- Settles O48: the held tallies, sound or up to the first wrong check code; the flags cleared. -/
theorem holdAndRelease : Obligations.HoldAndRelease := by
  intro w p h s down up hnamed args hh u removed counts after
  have hqueueF : u.portF.forwardQ = s.portF.forwardQ := arrived_forwardQ w p .f s
  have hqueueC : u.portC.forwardQ = s.portC.forwardQ := arrived_forwardQ w p .c s
  have hremoved : removed = (if down then (Course.of u).state.portF.forwardQ else []) ++
      (if up then (Course.of u).state.portC.forwardQ else []) := by
    simp only [removed, Course.of, hqueueF, hqueueC]
  have hqueued : queuedIn down up u = removed.length := by
    rw [hremoved]
    cases down <;> cases up <;> simp [queuedIn, Course.of]
  have hafter (tallies : Vector (Checked Counters) 32) : after tallies = { heldIn down up u with tallies := tallies } := by
    simp only [after, heldIn, hqueueF, hqueueC, u, arrived_holdDown, arrived_holdUp]
  have hserve : runOrder .hold p h args u = (holdNamed down up (Course.of u)).serve .done removed.length [] := by
    simp only [runOrder, runHold, args, directionArgs_selection hnamed, hqueued]
  refine ⟨fun ha hsound => ?_, fun before g ha hfault => ?_, fun ha => ?_⟩
  · rw [hremoved] at hsound
    obtain ⟨hfound, hstate, hcounts⟩ := holdNamed_sound down up (Course.of u) rfl hsound
    rw [← hremoved] at hcounts
    have hruns : runOrder .hold p h args u = .answered .done (halfOfNat removed.length) [] (holdNamed down up (Course.of u)).state := by
      rw [hserve, Course.serve, hfound]
    refine ⟨_, hcounts, ?_⟩
    have hstate' := (hafter (holdNamed down up (Course.of u)).state.tallies).trans hstate.symm
    rw [hstate']
    exact order_answers .hold w p h args s hh ha hruns (by decide)
  · rw [hremoved] at hfault
    obtain ⟨hfound, hstate, hcounts⟩ := holdNamed_stopped down up before g (Course.of u) rfl hfault
    have hruns : runOrder .hold p h args u = .halts (.tallyStore g) (holdNamed down up (Course.of u)).state := by
      rw [hserve, Course.serve, hfound]
    have hstate' := (hafter (holdNamed down up (Course.of u)).state.tallies).trans hstate.symm
    obtain ⟨t, hexec, hhalts⟩ := order_halts_serving hh ha hruns
      (by rw [hstate]; exact (arrived_gate w p s).trans (admitted_serving ha (by decide) (by decide)))
    exact ⟨_, t, hcounts, hexec, by rw [hstate']; exact hhalts⟩
  · have hruns : runOrder .release p h args u =
        .answered .done 0 [] { u with holdDown := !down && s.holdDown, holdUp := !up && s.holdUp } := by
      simp only [runOrder, runRelease, args, directionArgs_selection hnamed, doneWith, u, arrived_holdDown, arrived_holdUp]
      cases down <;> cases up <;> rfl
    exact order_answers .release w p h args s hh ha hruns (by decide)

/-! ## EXCHANGE_FLUSH (R62, R63, R176) -/

/-- Settles O51: the flush without notices, sound or up to the first wrong check code. -/
theorem exchangeFlushEmptiesTheTracker : Obligations.ExchangeFlushEmptiesTheTracker := by
  intro w p h s hh ha u counts
  have hpet : (Course.of u).state.pet = s.pet := arrived_pet w p s
  have hserve : runOrder .exchangeFlush p h [] u = (flush none (Course.of u)).serve .done s.pet.length [] := by
    simp only [runOrder, runExchangeFlush, noArgs_nil, show u.pet = s.pet from hpet]
  refine ⟨fun hread hsound => ?_, fun before fault hfault => ?_⟩
  · obtain ⟨hfound, hstate, hcounts⟩ := flush_silent (Course.of u) rfl hread (by rw [hpet]; exact hsound)
    rw [hpet] at hcounts
    refine ⟨_, hcounts, ?_⟩
    have hruns : runOrder .exchangeFlush p h [] u = .answered .done (halfOfNat s.pet.length) []
        { u with tallies := (flush none (Course.of u)).state.tallies, pet := [], ring := [] } := by
      rw [hserve, Course.serve, hfound, hstate]
      rfl
    exact order_answers .exchangeFlush w p h [] s hh ha hruns (by decide)
  · obtain ⟨hfound, hstate, hcounts⟩ := flush_silentStopped (e := Course.of u) rfl (by rw [hpet]; exact hfault)
    have hruns : runOrder .exchangeFlush p h [] u = .halts fault
        { u with tallies := (flush none (Course.of u)).state.tallies, pet := [], ring := [] } := by
      rw [hserve, Course.serve, hfound, hstate]
      rfl
    obtain ⟨t, hexec, hhalts⟩ := order_halts_serving hh ha hruns
      ((arrived_gate w p s).trans (admitted_serving ha (by decide) (by decide)))
    exact ⟨_, t, hcounts, hexec, hhalts⟩

end Sys2Proof.Proofs
end

section
/-! Orders on tallies, port counters, captures, words and rules, and RESTART (O43, O54 to O56, O58, O60). -/

namespace Sys2Proof.Proofs

open Sys2Proof.Machine Sys2Proof.Laws Sys2Proof.Safety

set_option Elab.async false

/-! ## TALLY_CLEAR (R128, R177) -/

/-- The four bytes of a group set are read back as that set (R177). -/
theorem groupSetArgs_countBytes (set : GroupSet) : groupSetArgs (countBytes set) = .ok set :=
  congrArg Except.ok (countOf_bytes set)

/-- Settles O54: every named group is written fresh. -/
theorem tallyClearZeroes : Obligations.TallyClearZeroes := by
  intro w p h s set hh ha u
  refine ⟨Vector.ofFn fun g : Group => if inSet set g then Checked.fresh Counters.zero else u.tallies[g], fun g => ?_, ?_⟩
  · simp only [Fin.getElem_fin, Vector.getElem_ofFn, inSet]
    rfl
  · have hruns : runOrder .tallyClear p h (countBytes set) u = .answered .done 0 []
        { u with tallies := Vector.ofFn fun g : Group => if inSet set g then Checked.fresh Counters.zero else u.tallies[g] } := by
      simp only [runOrder, runTallyClear, groupSetArgs_countBytes]
      rfl
    exact order_answers .tallyClear w p h _ s hh ha hruns (by decide)

/-! ## PORT_COUNTERS (R178, R179) -/

/-- A port selection and a clear option spell themselves (R178, R205). -/
theorem portCountersArgs_selection {atC atF : Bool} (clear : Bool) (h : atC = true ∨ atF = true) :
    portCountersArgs [byteOf ((if atC then 1 else 0) + (if atF then 2 else 0)), if clear then 1 else 0] = .ok (atC, atF, clear) := by
  cases atC <;> cases atF
  case false.false => simp at h
  all_goals cases clear <;> rfl

/-- The counters of the selected ports at 0, Port C before Port F (R179). -/
theorem clearCounters_selected (atC atF clear : Bool) (u : State) :
    (if clear && atF then clearCounters .f (if clear && atC then clearCounters .c u else u)
      else (if clear && atC then clearCounters .c u else u)) =
    { u with
      portC := { u.portC with counters := if clear && atC then Vector.replicate 13 0 else u.portC.counters },
      portF := { u.portF with counters := if clear && atF then Vector.replicate 13 0 else u.portF.counters } } := by
  cases clear && atC <;> cases clear && atF <;> rfl

/-- Settles O55: the selected counters as they stand after this order's counts. -/
theorem portCountersAreReadAndCleared : Obligations.PortCountersAreReadAndCleared := by
  intro w p h s atC atF clear hselected args hh ha u
  have hruns : runOrder .portCounters p h args u = .answered .done 0
      ((if atC then countersBytes u.portC.counters else []) ++ (if atF then countersBytes u.portF.counters else []))
      { u with
        portC := { u.portC with counters := if clear && atC then Vector.replicate 13 0 else u.portC.counters },
        portF := { u.portF with counters := if clear && atF then Vector.replicate 13 0 else u.portF.counters } } := by
    simp only [runOrder, runPortCounters, args, portCountersArgs_selection clear hselected, clearCounters_selected]
    rfl
  exact order_answers .portCounters w p h args s hh ha hruns (by decide)

/-! ## CAPTURE_READ (R137, R180, R207) -/

/-- Settles O56: the queue empty, or its oldest record taken. -/
theorem captureReadTakesTheOldest : Obligations.CaptureReadTakesTheOldest := by
  intro w p h s hh ha u
  have hcaptures : u.captures = s.captures := arrived_captures w p s
  have hoverflow : u.overflow = s.overflow := arrived_overflow w p s
  refine ⟨fun hempty => ?_, fun x xs hsome => ?_⟩
  · have hruns : runOrder .captureRead p h [] u = .answered .done 0 (halfBytes s.overflow) { u with overflow := 0 } := by
      have hstate : ({ u with captures := [], overflow := 0 } : State) = { u with overflow := 0 } := by rw [← hcaptures.trans hempty]
      simp only [runOrder, runCaptureRead, noArgs_nil, hcaptures, hempty, hoverflow, doneWith, List.drop_nil, List.append_nil, hstate]
      rfl
    exact order_answers .captureRead w p h [] s hh ha hruns (by decide)
  · have hruns : runOrder .captureRead p h [] u =
        .answered .done (halfOfNat xs.length) (halfBytes s.overflow ++ x.record) { u with captures := xs, overflow := 0 } := by
      simp only [runOrder, runCaptureRead, noArgs_nil, hcaptures, hsome, hoverflow, doneWith, List.drop_succ_cons, List.drop_zero]
    exact order_answers .captureRead w p h [] s hh ha hruns (by decide)

/-! ## Spans (R169, R173, R181) -/

theorem byteOf_small {n : Nat} (h : n < 256) : (byteOf n).toNat = n := by
  rw [byteOf_toNat]
  exact Nat.mod_eq_of_lt h

/-- A span within a table is read as it stands (R169, R173, R181). -/
theorem spanAt_ok {args : List Byte} {pos n first count : Nat} (hfirst : byteAt args pos = .ok (byteOf first))
    (hcount : byteAt args (pos + 1) = .ok (byteOf count)) (hn : n ≤ 128) (h1 : 1 ≤ count) (h16 : count ≤ 16)
    (hin : first + count ≤ n) : spanAt args pos n = .ok (first, count) := by
  have hf := byteOf_small (n := first) (by omega)
  have hc := byteOf_small (n := count) (by omega)
  rw [spanAt, hfirst]
  change (demand (decide ((byteOf first).toNat < n)) pos >>= fun _ => _) = _
  rw [hf, demand, if_pos (by simp; omega), hcount]
  change (demand (decide (1 ≤ (byteOf count).toNat) && decide ((byteOf count).toNat ≤ 16) &&
    decide (first + (byteOf count).toNat ≤ n)) (pos + 1) >>= fun _ => Except.ok (first, (byteOf count).toNat)) = _
  rw [hc, demand, if_pos (by simp; omega)]
  rfl

theorem spanArgs_ok {first count : Nat} (h1 : 1 ≤ count) (hin : first + count ≤ 16) :
    (spanAt [byteOf first, byteOf count] 1 16 >>= fun span => noMore [byteOf first, byteOf count] 2 >>= fun _ => pure span) =
      .ok (first, count) := by
  rw [spanAt_ok (by rfl) (by rfl) (by decide) h1 (by omega) hin]
  rfl

/-! ## WORD_READ (R181, R186) -/

/-- Settles O58: the words of the span, and the flag by whether the other side's notice word is among them. -/
theorem wordReadReturnsTheWords : Obligations.WordReadReturnsTheWords := by
  intro w p h s first count args hh ha h1 hin u acknowledges answer
  have hdata : ((spanIndices 16 first count).flatMap fun i => halfBytes u.words[i]) =
      ((s.words.toList.drop first).take count).flatMap halfBytes := by
    rw [span_flatMap u.words halfBytes first count hin, show u.words = s.words from arrived_words w p s]
  have hmember : noticeWord p.other ∈ spanIndices 16 first count ↔ acknowledges := by
    rw [mem_spanIndices]
    cases p with
    | c => exact Iff.rfl
    | f =>
      change first ≤ 0 ∧ 0 < first + count ↔ first = 0
      omega
  have hruns : runOrder .wordRead p h args u = .answered .done (halfOfNat count)
      (((s.words.toList.drop first).take count).flatMap halfBytes)
      (if noticeWord p.other ∈ spanIndices 16 first count then u.onPort p fun q => { q with noticePending := false } else u) := by
    simp only [runOrder, runWordRead, wordReadArgs, args, spanArgs_ok h1 hin, hdata, doneWith]
  have hanswers := order_answers .wordRead w p h args s hh ha hruns (by decide)
  refine ⟨fun hack => ?_, fun hnot => ?_⟩
  · rw [if_pos (hmember.2 hack)] at hanswers
    exact hanswers
  · rw [if_neg fun hin' => hnot (hmember.1 hin')] at hanswers
    exact hanswers

/-! ## RULES_READ (R28, R156, R169) -/

theorem rulesReadArgs_ok {staging : Bool} {first count : Nat} (h1 : 1 ≤ count) (h16 : count ≤ 16) (hin : first + count ≤ 128) :
    rulesReadArgs [if staging then 1 else 0, byteOf first, byteOf count] = .ok (staging, first, count) := by
  cases staging <;> simp only [rulesReadArgs, spanAt_ok (args := [_, byteOf first, byteOf count]) (pos := 2) rfl rfl le_rfl h1 h16 hin] <;>
    rfl

/-- The entries of a span, all sound (R28). -/
theorem corruptRule_span_none {bank : RuleBank} {first count : Nat}
    (h : ∀ j : RuleIndex, first ≤ j.val → j.val < first + count → bank[j].sound = true) :
    corruptRule bank (spanIndices 128 first count) = none := by
  refine List.find?_eq_none.2 fun j hj => ?_
  obtain ⟨hlow, hhigh⟩ := (mem_spanIndices first count j).1 hj
  rw [h j hlow hhigh]
  decide

/-- The first wrong entry of a span (R28). -/
theorem corruptRule_span_first {bank : RuleBank} {first count : Nat} {i : RuleIndex} (hlow : first ≤ i.val)
    (hhigh : i.val < first + count) (hbelow : ∀ j : RuleIndex, first ≤ j.val → j < i → bank[j].sound = true)
    (hwrong : bank[i].sound = false) : corruptRule bank (spanIndices 128 first count) = some i := by
  rw [corruptRule, spanIndices, List.find?_filter]
  refine find_finRange ?_ fun j hj => ?_
  · simpa [hlow, hhigh] using hwrong
  · by_cases hfrom : first ≤ j.val
    · rw [hbelow j hfrom hj]
      simp
    · simp [hfrom]

/-- Settles O43: the span's entries, sound or up to the first wrong check code. -/
theorem rulesReadReturnsTheEntries : Obligations.RulesReadReturnsTheEntries := by
  intro w p h s staging first count args hh ha h1 h16 hin u which bank
  have hwhich : (if staging then u.stagingBank else u.activeBank) = which := by
    simp only [State.stagingBank, u, arrived_activeBank, which]
  have hcode (x : Bank) : bankCode x = (match x with | .a => 0 | .b => 1) := by cases x <;> rfl
  refine ⟨fun hsound => ?_, fun i hserving hlow hhigh hbelow hwrong => ?_⟩
  · have hruns : runOrder .rulesRead p h args u = .answered .done (halfOfNat count)
        (bankCode which :: ((bank.toList.drop first).take count).flatMap fun x => x.item.encode) u := by
      simp only [runOrder, runRulesRead, args, rulesReadArgs_ok h1 h16 hin, hwhich]
      rw [corruptRule_span_none hsound, span_flatMap bank (fun x => x.item.encode) first count hin]
      rfl
    refine Eq.mp (congrArg (fun code => Answers (.rulesRead w p h args) s p h 0x04 .done (halfOfNat count)
      (code :: ((bank.toList.drop first).take count).flatMap fun x => x.item.encode) true u) (hcode which)) ?_
    exact order_answers .rulesRead w p h args s hh ha hruns (by decide)
  · have hruns : runOrder .rulesRead p h args u = .halts (.ruleStore which i) u := by
      simp only [runOrder, runRulesRead, args, rulesReadArgs_ok h1 h16 hin, hwhich]
      rw [corruptRule_span_first hlow hhigh hbelow hwrong]
    exact order_halts_serving hh ha hruns ((arrived_gate w p s).trans hserving)

/-! ## RESTART (R15, R183, R200) -/

/-- A head placement, by the room in the Local Queue (R15). -/
theorem placeHead_takes (now bt : Nat) (t : Telegram) (q : PortState) :
    (q.localQ.length < 4 →
      Takes now bt { q with localQ := { telegram := t, restartAnswer := true } :: q.localQ } (q.placeHead now bt t)) ∧
    (4 ≤ q.localQ.length →
      Takes now bt (({ q with localQ := { telegram := t, restartAnswer := true } :: q.localQ.dropLast } : PortState).count
        .localItemsLost 1) (q.placeHead now bt t)) := by
  refine ⟨fun hroom => ?_, fun hfull => ?_⟩
  · have hcapacity : q.localQ.length < Config.localCapacity := hroom
    simp only [PortState.placeHead, if_pos hcapacity]
    exact portTake_takes _ _ _
  · have hcapacity : ¬q.localQ.length < Config.localCapacity := Nat.not_lt.2 hfull
    simp only [PortState.placeHead, if_neg hcapacity]
    exact portTake_takes _ _ _

/-- Settles O60: the DONE answer stored, and placed ahead of the Local Queue. -/
theorem restartIsPending : Obligations.RestartIsPending := by
  intro w p h s hh ha v a x q takes
  have hv : v = { arrived w p s with slot := .restarting { port := p, limit := (arrived w p s).now + Config.restartTime } } := by
    simp only [v, arrived_now]
    rfl
  have hruns : runOrder .restart p h [] (arrived w p s) = .answered .done 0 [] v := by
    rw [hv]
    rfl
  have hexec : exec (.restart w p h []) s =
      .next (v.setPort p (q.placeHead v.now (byteTime v.sampled.rts) (answerTo h a v))) := by
    change exec (orderInstr .restart w p h []) s = _
    rw [exec_orderInstr, orderRow_admitted .restart w p h [] s hh ha, hruns]
    change Host.Outcome.next ((v.setPort p q).setPort p
      (((v.setPort p q).port p).placeHead v.now (byteTime v.sampled.rts) (answerTo h a v))) = _
    rw [setPort_setPort, port_setPort_same]
  obtain ⟨hroom, hfull⟩ := placeHead_takes v.now (byteTime v.sampled.rts) (answerTo h a v) q
  refine ⟨_, hexec, by rw [port_setPort_same], ?_, ?_⟩
  · rw [port_setPort_same]
    exact hroom
  · rw [port_setPort_same]
    exact hfull

end Sys2Proof.Proofs
end

section
/-! Orders on profiles and exchanges (O49, O50), and the snapshot orders (O52, O53). -/

namespace Sys2Proof.Proofs

open Sys2Proof.Machine Sys2Proof.Laws Sys2Proof.Safety

set_option Elab.async false

/-! ## PROFILE_READ and PROFILE_WRITE (R79, R80, R83, R173, R174) -/

/-- An in-use entry that names a profile (R79). -/
def NamesProfile (bank : RuleBank) (n : Fin 16) (i : RuleIndex) : Prop :=
  bank[i].item.inUse = true ∧ bank[i].item.profile = some n

/-- The search goes past entries that are sound and do not name the profile (R79). -/
theorem searchProfile_skip {bank : RuleBank} {n : Fin 16} {xs : List RuleIndex}
    (h : ∀ j ∈ xs, bank[j].sound = true ∧ ¬NamesProfile bank n j) (ys : List RuleIndex) :
    searchProfile bank n (xs ++ ys) = searchProfile bank n ys := by
  induction xs with
  | nil => rfl
  | cons j xs ih =>
    obtain ⟨hsound, hother⟩ := h j List.mem_cons_self
    rw [List.cons_append, searchProfile, if_pos hsound, if_neg (by simpa [NamesProfile] using hother)]
    exact ih fun k hk => h k (List.mem_cons_of_mem _ hk)

theorem searchProfile_none {bank : RuleBank} {n : Fin 16} (h : ∀ j : RuleIndex, bank[j].sound = true ∧ ¬NamesProfile bank n j) :
    searchProfile bank n (List.finRange 128) = .absent := by
  rw [← List.append_nil (List.finRange 128), searchProfile_skip fun j _ => h j]
  rfl

/-- The search comes to the first entry that is wrong or names the profile (R79). -/
theorem searchProfile_reaches {bank : RuleBank} {n : Fin 16} {i : RuleIndex}
    (h : ∀ j < i, bank[j].sound = true ∧ ¬NamesProfile bank n j) :
    ∃ ys, searchProfile bank n (List.finRange 128) = searchProfile bank n (i :: ys) := by
  obtain ⟨xs, ys, hsplit, hlt⟩ := finRange_split i
  exact ⟨ys, by rw [hsplit, searchProfile_skip fun j hj => h j (hlt j hj)]⟩

theorem searchProfile_named {bank : RuleBank} {n : Fin 16} {i : RuleIndex}
    (h : ∀ j < i, bank[j].sound = true ∧ ¬NamesProfile bank n j) (hsound : bank[i].sound = true) (hnames : NamesProfile bank n i) :
    searchProfile bank n (List.finRange 128) = .named i := by
  obtain ⟨ys, hreaches⟩ := searchProfile_reaches h
  rw [hreaches, searchProfile, if_pos hsound, if_pos (by simpa [NamesProfile] using hnames)]

theorem searchProfile_corrupt {bank : RuleBank} {n : Fin 16} {i : RuleIndex}
    (h : ∀ j < i, bank[j].sound = true ∧ ¬NamesProfile bank n j) (hwrong : bank[i].sound = false) :
    searchProfile bank n (List.finRange 128) = .corrupt i := by
  obtain ⟨ys, hreaches⟩ := searchProfile_reaches h
  rw [hreaches, searchProfile, if_neg (by rw [hwrong]; exact Bool.false_ne_true)]

/-- The six bytes of a PROFILE_WRITE are read as they were written (R79, R174). -/
theorem profileWriteArgs_ok {n : Fin 16} {capacity amount : Byte} {period : Half} {mode : CostMode} (hamount : amount ≠ 0)
    (hperiod : period ≠ 0) (hlimit : period.toNat ≤ 1000) :
    profileWriteArgs [byteOf n.val, capacity, amount, period.extractLsb' 8 8, period.extractLsb' 0 8, costModeCode mode] =
      .ok { number := n, capacity := capacity, amount := amount, period := period, mode := mode } := by
  have hn : (byteOf n.val).toNat = n.val := byteOf_small (by omega)
  have hamount' : 1 ≤ amount.toNat := Nat.pos_of_ne_zero fun h => hamount (BitVec.eq_of_toNat_eq h)
  have hperiod' : 1 ≤ period.toNat := Nat.pos_of_ne_zero fun h => hperiod (BitVec.eq_of_toNat_eq h)
  have hnumber : Fin.ofNat 16 n.val = n := Fin.ext (Nat.mod_eq_of_lt n.isLt)
  have hmode : (if costModeCode mode = 0 then CostMode.perTelegram else .perSize) = mode := by cases mode <;> rfl
  have hcode : (decide (costModeCode mode = 0) || decide (costModeCode mode = 1)) = true := by cases mode <;> rfl
  change (demand (decide ((byteOf n.val).toNat < 16)) 1 >>= fun _ => demand (decide (1 ≤ amount.toNat)) 3 >>= fun _ =>
    demand (decide (1 ≤ (halfOf (period.extractLsb' 8 8) (period.extractLsb' 0 8)).toNat) &&
      decide ((halfOf (period.extractLsb' 8 8) (period.extractLsb' 0 8)).toNat ≤ 1000)) 4 >>= fun _ =>
    demand (decide (costModeCode mode = 0) || decide (costModeCode mode = 1)) 6 >>= fun _ =>
    Except.ok ({ number := Fin.ofNat 16 (byteOf n.val).toNat, capacity := capacity, amount := amount,
                 period := halfOf (period.extractLsb' 8 8) (period.extractLsb' 0 8),
                 mode := if costModeCode mode = 0 then .perTelegram else .perSize } : ProfileArgs)) = _
  rw [halfOf_bytes, hn, hnumber, hmode, hcode, demand, if_pos (by simp), demand, if_pos (by simpa using hamount'), demand,
    if_pos (by simpa using ⟨hperiod', hlimit⟩)]
  rfl

/-- Settles O49: the span's records; the write, or what its search of the Active bank comes to. -/
theorem profilesAreReadAndWritten : Obligations.ProfilesAreReadAndWritten := by
  intro w p h s hh u
  have hprofiles : u.profiles = s.profiles := arrived_profiles w p s
  refine ⟨fun first count h1 hin ha => ?_, ?_⟩
  · have hruns : runOrder .profileRead p h [byteOf first, byteOf count] u = .answered .done (halfOfNat count)
        (((s.profiles.toList.drop first).take count).flatMap Profile.record) u := by
      simp only [runOrder, runProfileRead, profileReadArgs, spanArgs_ok h1 hin, hprofiles, doneWith,
        span_flatMap s.profiles Profile.record first count hin]
    have hanswers := order_answers .profileRead w p h _ s hh ha hruns (by decide)
    refine Eq.mp (congrArg (fun data => Answers (.profileRead w p h [byteOf first, byteOf count]) s p h 0x0C .done (halfOfNat count)
      data true u) ?_) hanswers
    refine congrArg (fun f => ((s.profiles.toList.drop first).take count).flatMap f) (funext fun x => ?_)
    cases hmode : x.mode <;> simp [Profile.record, hmode, costModeCode, halfBytes]
  · intro n capacity amount period mode hamount hperiod hlimit args bank names ha
    have hargs : args = [byteOf n.val, capacity, amount, period.extractLsb' 8 8, period.extractLsb' 0 8, costModeCode mode] := by
      cases mode <;> rfl
    have hread : profileWriteArgs args = .ok { number := n, capacity := capacity, amount := amount, period := period, mode := mode } := by
      rw [hargs]
      exact profileWriteArgs_ok hamount hperiod hlimit
    have hnow : u.now = s.now + w.elapsed := arrived_now w p s
    refine ⟨fun hwrites => ?_, fun i hzero hbelow hsound hnames => ?_, fun i hzero hbelow hwrong => ?_⟩
    · have hruns : runOrder .profileWrite p h args u = .answered .done 0 [] { u with
          profiles := s.profiles.set n
            { capacity := capacity, amount := amount, period := period, mode := mode, credits := capacity,
              nextExpiry := if capacity = 0 then none else some (s.now + w.elapsed + period.toNat * 4000) } } := by
        simp only [runOrder, runProfileWrite, hread]
        rw [← hprofiles, ← hnow]
        by_cases hzero : capacity = 0
        · rw [if_pos hzero, searchProfile_none (hwrites.resolve_left (not_not_intro hzero))]
          rfl
        · rw [if_neg hzero]
          rfl
      exact order_answers .profileWrite w p h args s hh ha hruns (by decide)
    · have hruns : runOrder .profileWrite p h args u = .answered .inUse (halfOfNat i.val) [] u := by
        simp only [runOrder, runProfileWrite, hread]
        rw [if_pos hzero, searchProfile_named hbelow hsound hnames]
      exact order_answers .profileWrite w p h args s hh ha hruns (by decide)
    · have hruns : runOrder .profileWrite p h args u = .halts (.ruleStore u.activeBank i) u := by
        simp only [runOrder, runProfileWrite, hread]
        rw [if_pos hzero, searchProfile_corrupt hbelow hwrong]
      exact order_halts_serving hh ha hruns ((arrived_gate w p s).trans (admitted_serving ha (by decide) (by decide)))

/-! ## EXCHANGE_LIST (R48, R67, R68, R175) -/

/-- The milliseconds to a deadline, as two bytes (R48, R67). -/
def leftOf (now : Moment) (x : PetEntry) : Half := halfOfNat (msRemaining now x.deadline)

theorem leftOf_toNat (now : Moment) (x : PetEntry) : (leftOf now x).toNat = msRemaining now x.deadline := by
  simp only [leftOf, halfOfNat, msRemaining, BitVec.toNat_ofNat]
  omega

/-- Within 65535 ms of the deadline, the milliseconds to it are rounded up (R48, R67). -/
theorem msRemaining_near {now deadline : Nat} (hfuture : now < deadline) (hnear : deadline ≤ now + 65535 * 4000) :
    now + (msRemaining now deadline - 1) * 4000 < deadline ∧ deadline ≤ now + msRemaining now deadline * 4000 := by
  simp only [msRemaining, Config.unitsPerMs]
  omega

theorem msRemaining_far {now deadline : Nat} (hfar : now + 65535 * 4000 < deadline) : msRemaining now deadline = 65535 := by
  simp only [msRemaining, Config.unitsPerMs]
  omega

theorem msRemaining_past {now deadline : Nat} (hpast : deadline ≤ now) : msRemaining now deadline = 1 := by
  simp only [msRemaining, Config.unitsPerMs]
  omega

/-- Settles O50: the page, sound or up to the first wrong check code. -/
theorem exchangesAreListed : Obligations.ExchangesAreListed := by
  intro w p h s skip hh ha u page
  have hpet : u.pet = s.pet := arrived_pet w p s
  have hargs : exchangeListArgs [skip] = .ok skip.toNat := rfl
  refine ⟨fun hread => ⟨leftOf u.now, fun x hpast => ?_, fun x hfuture hnear => ?_, fun x hfar => ?_, ?_⟩,
    fun before x after hserving hsplit hbefore hwrong => ?_⟩
  · exact BitVec.eq_of_toNat_eq ((leftOf_toNat u.now x).trans (msRemaining_past hpast))
  · rw [leftOf_toNat]
    exact msRemaining_near hfuture hnear
  · exact BitVec.eq_of_toNat_eq ((leftOf_toNat u.now x).trans (msRemaining_far hfar))
  · have hnone : (page.find? fun x => !u.petSound[x.slot]) = none := List.find?_eq_none.2 fun x hx => by
      rw [hread x hx]
      decide
    have hruns : runOrder .exchangeList p h [skip] u = .answered .done (halfOfNat page.length)
        (byteOf s.pet.length :: page.flatMap (PetEntry.record u.now)) u := by
      simp only [runOrder, runExchangeList, hargs, hpet]
      change (match page.find? fun x => !u.petSound[x.slot] with | some x => _ | none => _) = _
      rw [hnone]
      rfl
    have hanswers := order_answers .exchangeList w p h [skip] s hh ha hruns (by decide)
    refine Eq.mp (congrArg (fun f => Answers (.exchangeList w p h [skip]) s p h 0x0E .done (halfOfNat page.length)
      (byteOf s.pet.length :: page.flatMap f) true u) (funext fun x => ?_)) hanswers
    rfl
  · have hfound : (page.find? fun x => !u.petSound[x.slot]) = some x :=
      List.find?_eq_some_iff_append.2 ⟨by simpa using hwrong, before, after, hsplit, fun y hy => by simpa using hbefore y hy⟩
    have hruns : runOrder .exchangeList p h [skip] u = .halts (.exchangeStore x.slot) u := by
      simp only [runOrder, runExchangeList, hargs, hpet]
      change (match page.find? fun x => !u.petSound[x.slot] with | some x => _ | none => _) = _
      rw [hfound]
    exact order_halts_serving hh ha hruns ((arrived_gate w p s).trans hserving)

/-! ## SNAPSHOT (R118 to R121, R177) -/

/-- The indices in ascending order, cut at one of them: the lower ones, and the higher ones. -/
theorem finRange_cut {n : Nat} (i : Fin n) :
    ∃ xs ys, List.finRange n = xs ++ i :: ys ∧ (∀ j, j ∈ xs ↔ j < i) ∧ ∀ j ∈ ys, i < j := by
  obtain ⟨xs, ys, hsplit⟩ := List.append_of_mem (List.mem_finRange i)
  have hsorted := List.pairwise_lt_finRange n
  rw [hsplit, List.pairwise_append, List.pairwise_cons] at hsorted
  obtain ⟨-, ⟨habove, -⟩, hbelow⟩ := hsorted
  refine ⟨xs, ys, hsplit, fun j => ⟨fun hj => hbelow j hj i List.mem_cons_self, fun hj => ?_⟩, habove⟩
  have hmem : j ∈ xs ++ i :: ys := hsplit ▸ List.mem_finRange j
  rcases List.mem_append.1 hmem with hxs | hrest
  · exact hxs
  · rcases List.mem_cons.1 hrest with rfl | hys
    · exact absurd hj (lt_irrefl _)
    · exact absurd hj (lt_asymm (habove j hys))

/-- The groups of a set, cut at one of them. -/
theorem groupsOf_cut {set : GroupSet} {g : Group} (hg : set.getLsbD g.val = true) :
    ∃ xs ys, groupsOf set = xs ++ g :: ys ∧ ∀ j, j ∈ xs ↔ set.getLsbD j.val = true ∧ j < g := by
  obtain ⟨xs, ys, hsplit, hbelow, -⟩ := finRange_cut g
  refine ⟨xs.filter (inSet set), ys.filter (inSet set), ?_, fun j => ?_⟩
  · rw [groupsOf, hsplit, List.filter_append, List.filter_cons_of_pos (p := inSet set) hg]
  · rw [List.mem_filter, hbelow, inSet, and_comm]

theorem mem_groupsOf (set : GroupSet) (g : Group) : g ∈ groupsOf set ↔ set.getLsbD g.val = true := by
  simp [groupsOf, inSet]

theorem groupsOf_nodup (set : GroupSet) : (groupsOf set).Nodup := (List.nodup_finRange 32).filter _

/-- Values per group, those of the groups of `gs` replaced. -/
def replacing {α : Type} (f : Group → α) (gs : List Group) (v : Vector α 32) : Vector α 32 :=
  Vector.ofFn fun g : Group => if g ∈ gs then f g else v[g]

theorem replacing_get {α : Type} (f : Group → α) (gs : List Group) (v : Vector α 32) (g : Group) :
    (replacing f gs v)[g] = if g ∈ gs then f g else v[g] := by
  simp [replacing]

theorem replacing_nil {α : Type} (f : Group → α) (v : Vector α 32) : replacing f [] v = v :=
  Vector.ext fun i hi => by simp [replacing]

theorem replacing_snoc {α : Type} (f : Group → α) (gs : List Group) (v : Vector α 32) (g : Group) :
    replacing f (gs ++ [g]) v = (replacing f gs v).set g (f g) := by
  refine Vector.ext fun i hi => ?_
  rw [Vector.getElem_set]
  by_cases hgi : g.val = i
  · subst hgi
    simp [replacing]
  · have hne : (⟨i, hi⟩ : Group) ≠ g := fun h => hgi (by rw [← h])
    simp [replacing, hgi, hne]

/-- The live counters after the captures of `gs`, cleared when asked (R118, R121). -/
def talliesOver (clear : Bool) (gs : List Group) (v : Vector (Checked Counters) 32) : Vector (Checked Counters) 32 :=
  if clear then replacing (fun _ => Checked.fresh Counters.zero) gs v else v

theorem talliesOver_get (clear : Bool) (gs : List Group) (v : Vector (Checked Counters) 32) (g : Group) :
    (talliesOver clear gs v)[g] = if clear = true ∧ g ∈ gs then Checked.fresh Counters.zero else v[g] := by
  cases clear <;> simp [talliesOver, replacing]

theorem talliesOver_snoc (clear : Bool) (gs : List Group) (v : Vector (Checked Counters) 32) (g : Group) :
    talliesOver clear (gs ++ [g]) v =
      if clear then (talliesOver clear gs v).set g (Checked.fresh Counters.zero) else talliesOver clear gs v := by
  cases clear with
  | false => simp [talliesOver]
  | true => simp [talliesOver, replacing_snoc]

/-- The gate after the captures of `gs` under a number (R118 to R120). -/
def capturedOver (clear : Bool) (number : Half) (gs : List Group) (u : State) : State :=
  { u with
    snapshots := replacing (fun g => some (capturedSlot u.tallies[g].item u.generation number)) gs u.snapshots
    tallies := talliesOver clear gs u.tallies }

theorem capturedOver_slot (clear : Bool) (number : Half) (gs : List Group) (u : State) (g : Group) :
    (capturedOver clear number gs u).snapshots[g] =
      if g ∈ gs then some (capturedSlot u.tallies[g].item u.generation number) else u.snapshots[g] :=
  replacing_get _ gs u.snapshots g

theorem capturedOver_tally (clear : Bool) (number : Half) (gs : List Group) (u : State) (g : Group) :
    (capturedOver clear number gs u).tallies[g] =
      if clear = true ∧ g ∈ gs then Checked.fresh Counters.zero else u.tallies[g] :=
  talliesOver_get clear gs u.tallies g

theorem capturedOver_nil (clear : Bool) (number : Half) (u : State) : capturedOver clear number [] u = u := by
  have htallies : talliesOver clear [] u.tallies = u.tallies := by cases clear <;> simp [talliesOver, replacing_nil]
  rw [capturedOver, replacing_nil, htallies]

/-- One more capture. -/
theorem capturedOver_snoc (clear : Bool) (number : Half) (gs : List Group) (u : State) (g : Group) :
    capturedOver clear number (gs ++ [g]) u =
      { capturedOver clear number gs u with
        snapshots := (capturedOver clear number gs u).snapshots.set g (some (capturedSlot u.tallies[g].item u.generation number))
        tallies := if clear then (capturedOver clear number gs u).tallies.set g (Checked.fresh Counters.zero)
          else (capturedOver clear number gs u).tallies } := by
  simp only [capturedOver, replacing_snoc, talliesOver_snoc]

/-- One named group that is not captured yet: captured, skipped, or where the captures end (R116, R120). -/
theorem captureGroup_skips {clear : Bool} {number : Half} {cap : List Group} {u : State} {g : Group} (hg : g ∉ cap) {x : Snapshot}
    (hheld : u.snapshots[g] = some x) :
    captureGroup clear number ⟨capturedOver clear number cap u, cap, none⟩ g = ⟨capturedOver clear number cap u, cap, none⟩ := by
  have hslot : (capturedOver clear number cap u).snapshots[g] = some x := by rw [capturedOver_slot, if_neg hg, hheld]
  simp only [captureGroup, hslot]
  rfl

theorem captureGroup_takes {clear : Bool} {number : Half} {cap : List Group} {u : State} {g : Group} (hg : g ∉ cap)
    (hempty : u.snapshots[g] = none) (hsound : u.tallies[g].sound = true) :
    captureGroup clear number ⟨capturedOver clear number cap u, cap, none⟩ g =
      ⟨capturedOver clear number (cap ++ [g]) u, cap ++ [g], none⟩ := by
  have hslot : (capturedOver clear number cap u).snapshots[g] = none := by rw [capturedOver_slot, if_neg hg, hempty]
  have htally : (capturedOver clear number cap u).tallies[g] = u.tallies[g] := by
    rw [capturedOver_tally, if_neg fun h => hg h.2]
  rw [capturedOver_snoc]
  simp only [captureGroup, hslot, htally, hsound]
  rfl

theorem captureGroup_stops {clear : Bool} {number : Half} {cap : List Group} {u : State} {g : Group} (hg : g ∉ cap)
    (hempty : u.snapshots[g] = none) (hwrong : u.tallies[g].sound = false) :
    captureGroup clear number ⟨capturedOver clear number cap u, cap, none⟩ g =
      ⟨capturedOver clear number cap u, cap, some (.tallyStore g)⟩ := by
  have hslot : (capturedOver clear number cap u).snapshots[g] = none := by rw [capturedOver_slot, if_neg hg, hempty]
  have htally : (capturedOver clear number cap u).tallies[g] = u.tallies[g] := by
    rw [capturedOver_tally, if_neg fun h => hg h.2]
  simp only [captureGroup, hslot, htally, hwrong]
  rfl

theorem captureGroup_ended (clear : Bool) (number : Half) (gs : List Group) {e : Capturing} (hfound : e.found ≠ none) :
    gs.foldl (captureGroup clear number) e = e := by
  induction gs with
  | nil => rfl
  | cons g gs ih => rw [List.foldl_cons, captureGroup, if_pos hfound, ih]

/-- The named groups that an order takes: those whose slots are EMPTY (R120). -/
def emptyOf (u : State) (gs : List Group) : List Group := gs.filter fun g => u.snapshots[g].isNone

/-- Over sound groups the captures take every EMPTY slot (R120). -/
theorem captureGroup_all (clear : Bool) (number : Half) {u : State} {gs cap : List Group} (hnodup : (cap ++ gs).Nodup)
    (hsound : ∀ g ∈ gs, u.snapshots[g] = none → u.tallies[g].sound = true) :
    gs.foldl (captureGroup clear number) ⟨capturedOver clear number cap u, cap, none⟩ =
      ⟨capturedOver clear number (cap ++ emptyOf u gs) u, cap ++ emptyOf u gs, none⟩ := by
  induction gs generalizing cap with
  | nil => simp [emptyOf]
  | cons g gs ih =>
    have hg : g ∉ cap := fun h => List.disjoint_of_nodup_append hnodup h List.mem_cons_self
    have hrest : ∀ j ∈ gs, u.snapshots[j] = none → u.tallies[j].sound = true := fun j hj => hsound j (List.mem_cons_of_mem _ hj)
    rw [List.foldl_cons]
    cases hslot : u.snapshots[g] with
    | some x =>
      rw [captureGroup_skips hg hslot, ih (hnodup.sublist (List.Sublist.append_left (List.sublist_cons_self g gs) cap)) hrest, emptyOf, emptyOf,
        List.filter_cons_of_neg (by rw [hslot]; exact Bool.false_ne_true)]
    | none =>
      rw [captureGroup_takes hg hslot (hsound g List.mem_cons_self hslot), ih (by rwa [List.append_assoc]) hrest, emptyOf, emptyOf,
        List.filter_cons_of_pos (by rw [hslot]; rfl), List.append_assoc]
      rfl

theorem saturated_eq (v : Counters) : saturated v = decide (∃ k : Fin 18, v[k] = 4294967295) := by
  rw [saturated, Bool.eq_iff_iff, List.any_eq_true, decide_eq_true_iff]
  constructor
  · rintro ⟨x, hx, hfull⟩
    obtain ⟨i, hi, rfl⟩ := Vector.mem_iff_getElem.1 (Vector.mem_toList_iff.1 hx)
    exact ⟨⟨i, hi⟩, BitVec.eq_of_toNat_eq (of_decide_eq_true hfull)⟩
  · rintro ⟨k, hk⟩
    refine ⟨v[k], Vector.mem_toList_iff.2 (Vector.getElem_mem k.isLt), ?_⟩
    rw [hk]
    rfl

theorem capturedSlot_eq (v : Counters) (generation number : Half) :
    capturedSlot v generation number =
      { counters := v, saturated := decide (∃ k : Fin 18, v[k] = 4294967295),
        generation := BitVec.ofNat 10 (generation.toNat % 1024), sequence := number, sound := true } := by
  have hlow : generation.extractLsb' 0 10 = BitVec.ofNat 10 (generation.toNat % 1024) := by
    apply BitVec.eq_of_toNat_eq
    simp
  rw [capturedSlot, saturated_eq, hlow]

/-- The gate after a SNAPSHOT that captured `gs`: an order that captured has a number of its own (R119, R120). -/
def takenOver (clear : Bool) (gs : List Group) (u : State) : State :=
  { capturedOver clear (u.captureSeq + 1) gs u with captureSeq := if gs = [] then u.captureSeq else u.captureSeq + 1 }

theorem takeSnapshot_of_foldl {set : GroupSet} {clear : Bool} {u : State} {gs : List Group} {found : Option GateFault}
    (h : (groupsOf set).foldl (captureGroup clear (u.captureSeq + 1)) ⟨u, [], none⟩ =
      ⟨capturedOver clear (u.captureSeq + 1) gs u, gs, found⟩) :
    takeSnapshot set clear u = ⟨takenOver clear gs u, gs, found⟩ := by
  rw [takeSnapshot, h, takenOver]
  by_cases hgs : gs = []
  · rw [if_pos hgs, if_pos hgs]
    rfl
  · rw [if_neg hgs, if_neg hgs]

/-- Sound groups: the order captures every named group whose slot is EMPTY (R120). -/
theorem takeSnapshot_sound {set : GroupSet} {clear : Bool} {u : State}
    (hsound : ∀ g : Group, set.getLsbD g.val = true → u.snapshots[g] = none → u.tallies[g].sound = true) :
    takeSnapshot set clear u = ⟨takenOver clear (emptyOf u (groupsOf set)) u, emptyOf u (groupsOf set), none⟩ := by
  refine takeSnapshot_of_foldl ?_
  have hall := captureGroup_all clear (u.captureSeq + 1) (u := u) (cap := []) (gs := groupsOf set) (groupsOf_nodup set)
    fun g hg => hsound g ((mem_groupsOf set g).1 hg)
  rwa [capturedOver_nil] at hall

/-- The first wrong group ends the captures: the EMPTY slots below it are captured (R116, R120). -/
theorem takeSnapshot_wrong {set : GroupSet} {clear : Bool} {u : State} {g : Group} (hnamed : set.getLsbD g.val = true)
    (hempty : u.snapshots[g] = none) (hwrong : u.tallies[g].sound = false)
    (hbelow : ∀ j < g, set.getLsbD j.val = true → u.snapshots[j] = none → u.tallies[j].sound = true) :
    ∃ gs : List Group, (∀ j, j ∈ gs ↔ (set.getLsbD j.val = true ∧ u.snapshots[j] = none) ∧ j < g) ∧
      takeSnapshot set clear u = ⟨takenOver clear gs u, gs, some (.tallyStore g)⟩ := by
  obtain ⟨xs, ys, hsplit, hxs⟩ := groupsOf_cut hnamed
  have hmem : ∀ j, j ∈ emptyOf u xs ↔ (set.getLsbD j.val = true ∧ u.snapshots[j] = none) ∧ j < g := fun j => by
    rw [emptyOf, List.mem_filter, hxs, Option.isNone_iff_eq_none, and_right_comm]
  have hnew : g ∉ emptyOf u xs := fun h => lt_irrefl g ((hmem g).1 h).2
  have hnodup : xs.Nodup := (List.nodup_append.1 (hsplit ▸ groupsOf_nodup set)).1
  have hall := captureGroup_all clear (u.captureSeq + 1) (u := u) (cap := []) (gs := xs) hnodup
    fun j hj => hbelow j ((hxs j).1 hj).2 ((hxs j).1 hj).1
  rw [capturedOver_nil, List.nil_append] at hall
  refine ⟨emptyOf u xs, hmem, takeSnapshot_of_foldl ?_⟩
  rw [hsplit, List.foldl_append, hall, List.foldl_cons, captureGroup_stops hnew hempty hwrong,
    captureGroup_ended _ _ _ (Option.some_ne_none _)]

/-- A group set and a clear option spell themselves (R177). -/
theorem snapshotArgs_ok (set : GroupSet) (clear : Bool) :
    snapshotArgs (countBytes set ++ [if clear then 1 else 0]) = .ok (set, clear) := by
  cases clear
  · exact congrArg (fun x => Except.ok (x, false)) (countOf_bytes set)
  · exact congrArg (fun x => Except.ok (x, true)) (countOf_bytes set)

/-- Settles O52: the EMPTY slots of the named groups, all or those below the first wrong group. -/
theorem snapshotCaptures : Obligations.SnapshotCaptures := by
  intro w p h s set clear args hh ha u takes captures
  have hseq : u.captureSeq = s.captureSeq := arrived_captureSeq w p s
  have hgeneration : u.generation = s.generation := arrived_generation w p s
  have hserving : u.gate = .serving := (arrived_gate w p s).trans (admitted_serving ha (by decide) (by decide))
  have hcaptures : ∀ (done : Group → Prop) (gs : List Group), (∀ g, g ∈ gs ↔ done g) → captures done (takenOver clear gs u) := by
    intro done gs hdone
    refine ⟨_, _, _, fun ⟨g, hg⟩ => ?_, fun hnone => ?_, fun g => ⟨fun hg => ?_, fun hg => ?_⟩, rfl⟩
    · rw [if_neg (List.ne_nil_of_mem ((hdone g).2 hg)), hseq]
    · rw [if_pos (List.eq_nil_iff_forall_not_mem.2 fun g hg => hnone g ((hdone g).1 hg)), hseq]
    · have hmem := (hdone g).2 hg
      rw [if_neg (List.ne_nil_of_mem hmem)]
      refine ⟨(capturedOver_slot clear _ gs u g).trans ?_, (capturedOver_tally clear (u.captureSeq + 1) gs u g).trans ?_⟩
      · rw [if_pos hmem, capturedSlot_eq, hgeneration]
      · cases clear <;> simp [hmem, Counters.zero]
    · have hmem := fun hm => hg ((hdone g).1 hm)
      exact ⟨(capturedOver_slot clear _ gs u g).trans (if_neg hmem),
        (capturedOver_tally clear (u.captureSeq + 1) gs u g).trans (if_neg fun hm => hmem hm.2)⟩
  refine ⟨fun hsound => ?_, fun g htakes hwrong hbelow => ?_⟩
  · have hmem : ∀ g, g ∈ emptyOf u (groupsOf set) ↔ takes g := fun g => by
      rw [emptyOf, List.mem_filter, mem_groupsOf, Option.isNone_iff_eq_none]
    have htaken := takeSnapshot_sound (clear := clear) fun g hnamed hempty => hsound g ⟨hnamed, hempty⟩
    let captured : GroupSet := groupSetOf fun g => decide (g ∈ emptyOf u (groupsOf set))
    have hcaptured : ∀ g : Group, captured.getLsbD g.val = true ↔ takes g := fun g => by
      rw [groupSetOf_bit, decide_eq_true_iff, hmem]
    have hskipped : ∀ g : Group, (set &&& ~~~captured).getLsbD g.val = true ↔ set.getLsbD g.val = true ∧ ¬takes g := fun g => by
      rw [← hcaptured g]
      simp
    have hruns : runOrder .snapshot p h args u = .answered .done (takenOver clear (emptyOf u (groupsOf set)) u).captureSeq
        (countBytes captured ++ countBytes (set &&& ~~~captured)) (takenOver clear (emptyOf u (groupsOf set)) u) := by
      simp only [runOrder, runSnapshot, args, snapshotArgs_ok, htaken, captured]
    exact ⟨_, captured, set &&& ~~~captured, hcaptures takes _ hmem, fun g => ⟨hcaptured g, hskipped g⟩,
      order_answers .snapshot w p h args s hh ha hruns (by decide)⟩
  · obtain ⟨gs, hmem, htaken⟩ := takeSnapshot_wrong (clear := clear) htakes.1 htakes.2 hwrong fun j hj hnamed hempty =>
      hbelow j hj ⟨hnamed, hempty⟩
    have hruns : runOrder .snapshot p h args u = .halts (.tallyStore g) (takenOver clear gs u) := by
      simp only [runOrder, runSnapshot, args, snapshotArgs_ok, htaken]
    obtain ⟨t, hnext, hhalts⟩ := order_halts_serving hh ha hruns hserving
    exact ⟨_, t, hcaptures _ gs hmem, hnext, hhalts⟩

/-! ## SNAPSHOT_READ (R117, R123, R124, R177) -/

/-- A HELD slot whose check code is right (R117). -/
def ReadsSound (u : State) (g : Group) : Prop := ∃ x, u.snapshots[g] = some x ∧ x.sound = true

/-- The record of a group's slot; an EMPTY one has none (R207). -/
def slotRecord (u : State) (g : Group) : List Byte := (u.snapshots[g]).elim [] (Snapshot.record g)

/-- The reads of `read`: their slots are EMPTY and their records are listed (R123). -/
def readOver (u : State) (read : List Group) (found : Option GateFault) : Reading :=
  ⟨replacing (fun _ => none) read u.snapshots, read.flatMap (slotRecord u), found⟩

theorem readOver_slot {u : State} {read : List Group} {g : Group} (hg : g ∉ read) (found : Option GateFault) :
    (readOver u read found).slots[g] = u.snapshots[g] :=
  (replacing_get _ read u.snapshots g).trans (if_neg hg)

theorem readSlot_reads {u : State} {read : List Group} {g : Group} (hg : g ∉ read) (hsound : ReadsSound u g) :
    readSlot (readOver u read none) g = readOver u (read ++ [g]) none := by
  obtain ⟨x, hx, hright⟩ := hsound
  have hslot := (readOver_slot hg none).trans hx
  have hrecord : slotRecord u g = x.record g := by rw [slotRecord, hx]; rfl
  simp only [readSlot, hslot, hright]
  simp [readOver, replacing_snoc, hrecord]

theorem readSlot_stops {u : State} {read : List Group} {g : Group} (hg : g ∉ read) {x : Snapshot} (hx : u.snapshots[g] = some x)
    (hwrong : x.sound = false) : readSlot (readOver u read none) g = readOver u read (some (.tallyStore g)) := by
  have hslot := (readOver_slot hg none).trans hx
  simp only [readSlot, hslot, hwrong]
  simp [readOver]

theorem readSlot_ended (gs : List Group) {e : Reading} (hfound : e.found ≠ none) : gs.foldl readSlot e = e := by
  induction gs with
  | nil => rfl
  | cons g gs ih => rw [List.foldl_cons, readSlot, if_pos hfound, ih]

/-- Sound slots are read to the last (R123). -/
theorem readSlot_all {u : State} {gs read : List Group} (hnodup : (read ++ gs).Nodup) (hsound : ∀ g ∈ gs, ReadsSound u g) :
    gs.foldl readSlot (readOver u read none) = readOver u (read ++ gs) none := by
  induction gs generalizing read with
  | nil => rw [List.append_nil, List.foldl_nil]
  | cons g gs ih =>
    have hg : g ∉ read := fun h => List.disjoint_of_nodup_append hnodup h List.mem_cons_self
    rw [List.foldl_cons, readSlot_reads hg (hsound g List.mem_cons_self), ih (by rwa [List.append_assoc])
      fun j hj => hsound j (List.mem_cons_of_mem _ hj), List.append_assoc]
    rfl

theorem readOver_nil (u : State) : readOver u [] none = ⟨u.snapshots, [], none⟩ := by
  rw [readOver, replacing_nil]
  rfl

/-- The first wrong slot ends the reads (R117). -/
theorem readSlot_wrong {u : State} {before after : List Group} {g : Group} {x : Snapshot} (hnodup : (before ++ g :: after).Nodup)
    (hsound : ∀ j ∈ before, ReadsSound u j) (hx : u.snapshots[g] = some x) (hwrong : x.sound = false) :
    (before ++ g :: after).foldl readSlot ⟨u.snapshots, [], none⟩ = readOver u before (some (.tallyStore g)) := by
  have hg : g ∉ before := fun h => List.disjoint_of_nodup_append hnodup h List.mem_cons_self
  rw [← readOver_nil, List.foldl_append, readSlot_all (read := []) (List.nodup_append.1 hnodup).1 hsound, List.nil_append, List.foldl_cons,
    readSlot_stops hg hx hwrong, readSlot_ended _ (Option.some_ne_none _)]

/-- Settles O53: the chosen slots are read to the last, or to the first wrong one. -/
theorem snapshotReadEmptiesSlots : Obligations.SnapshotReadEmptiesSlots := by
  intro w p h s set hh ha u chosen sound emptied
  have hselected : selectedSlots set u = chosen := by
    simp only [selectedSlots, groupsOf, List.filter_filter, chosen, Config.readPage, inSet, Bool.and_comm]
  have hnodup : chosen.Nodup := ((List.nodup_finRange 32).filter _).sublist (List.take_sublist _ _)
  have hreads : ∀ g ∈ chosen, sound g → ReadsSound u g := fun g hg hright => by
    obtain ⟨x, hx⟩ := Option.isSome_iff_exists.1 (Bool.and_eq_true_iff.1 (List.mem_filter.1 (List.mem_of_mem_take hg)).2).2
    exact ⟨x, hx, hright x hx⟩
  have hemptied : ∀ read : List Group, emptied read (replacing (fun _ => none) read u.snapshots) := fun read g =>
    replacing_get _ read u.snapshots g
  refine ⟨fun hsound => ?_, fun before g after x hsplit hbefore hx hwrong => ?_⟩
  · have hall := readSlot_all (u := u) (read := []) (gs := chosen) hnodup fun g hg => hreads g hg (hsound g hg)
    rw [readOver_nil, List.nil_append] at hall
    have hruns : runOrder .snapshotRead p h (countBytes set) u = .answered .done (halfOfNat chosen.length)
        (countBytes (heldSet { u with snapshots := replacing (fun _ => none) chosen u.snapshots }) ++ chosen.flatMap (slotRecord u))
        { u with snapshots := replacing (fun _ => none) chosen u.snapshots } := by
      simp only [runOrder, runSnapshotRead, groupSetArgs_countBytes, hselected, hall, readOver, doneWith]
    have hanswers := order_answers .snapshotRead w p h _ s hh ha hruns (by decide)
    refine ⟨_, _, hemptied chosen, fun g => groupSetOf_bit _ g, ?_⟩
    refine Eq.mp (congrArg (fun f => Answers (.snapshotRead w p h (countBytes set)) s p h 0x11 .done (halfOfNat chosen.length)
      (countBytes (heldSet { u with snapshots := replacing (fun _ => none) chosen u.snapshots }) ++ chosen.flatMap f) true
      { u with snapshots := replacing (fun _ => none) chosen u.snapshots }) (funext fun g => ?_)) hanswers
    rw [slotRecord]
    cases u.snapshots[g] <;> rfl
  · have hmem : ∀ j ∈ before, j ∈ chosen := fun j hj => hsplit ▸ List.mem_append_left _ hj
    have hread := readSlot_wrong (hsplit ▸ hnodup) (fun j hj => hreads j (hmem j hj) (hbefore j hj)) hx hwrong
    have hruns : runOrder .snapshotRead p h (countBytes set) u =
        .halts (.tallyStore g) { u with snapshots := replacing (fun _ => none) before u.snapshots } := by
      simp only [runOrder, runSnapshotRead, groupSetArgs_countBytes, hselected, hsplit, hread, readOver]
    obtain ⟨t, hnext, hhalts⟩ := order_halts_serving hh ha hruns
      ((arrived_gate w p s).trans (admitted_serving ha (by decide) (by decide)))
    exact ⟨_, t, hemptied before, hnext, hhalts⟩

end Sys2Proof.Proofs
end

section
/-! WORD_WRITE (O59) and STAGE_WRITE (O44): the orders that carry a list of fixed-size items. -/

namespace Sys2Proof.Proofs

open Sys2Proof.Machine Sys2Proof.Laws Sys2Proof.Safety

set_option Elab.async false

/-! ## The parameters of WORD_WRITE (R182) -/

/-- The bytes of a list of words are read back as those words (R163). -/
theorem wordsOf_halfBytes (xs : List Half) : wordsOf (xs.flatMap halfBytes) = xs := by
  induction xs with
  | nil => rfl
  | cons x xs ih =>
    change halfOf (x.extractLsb' 8 8) (x.extractLsb' 0 8) :: wordsOf (xs.flatMap halfBytes) = x :: xs
    rw [ih, halfOf_bytes]

theorem length_flatMap_halfBytes (xs : List Half) : (xs.flatMap halfBytes).length = 2 * xs.length := by
  induction xs with
  | nil => rfl
  | cons x xs ih =>
    rw [List.flatMap_cons, List.length_append, ih, List.length_cons]
    change 2 + _ = _
    omega

/-- The checks of WORD_WRITE after its first byte, in their sequence (R182; log entry 13). -/
theorem wordWriteArgs_cons (start : Byte) (rest : List Byte) : wordWriteArgs (start :: rest) =
    (demand (decide (start.toNat < 16)) 1 >>= fun _ => demand (decide (1 ≤ rest.length)) 2 >>= fun _ =>
      demand (decide (rest.length % 2 = 0)) (rest.length + 2) >>= fun _ =>
      demand (decide (rest.length / 2 ≤ 16 - start.toNat)) (2 * (17 - start.toNat)) >>= fun _ =>
      Except.ok (start.toNat, wordsOf rest)) :=
  rfl

theorem demand_pass {b : Bool} {pos : Nat} {α : Type} {f : Unit → Except Nat α} (h : b = true) :
    (demand b pos >>= f) = f () := by
  rw [demand, if_pos h]
  rfl

theorem demand_fault {b : Bool} {pos : Nat} {α : Type} {f : Unit → Except Nat α} (h : b = false) :
    (demand b pos >>= f) = .error pos := by
  rw [demand, if_neg (by rw [h]; exact Bool.false_ne_true)]
  rfl

theorem wordWriteArgs_start {start : Byte} (rest : List Byte) (h : 16 ≤ start.toNat) : wordWriteArgs (start :: rest) = .error 1 := by
  rw [wordWriteArgs_cons, demand_fault (decide_eq_false (by omega))]

theorem wordWriteArgs_empty {start : Byte} (h : start.toNat < 16) : wordWriteArgs [start] = .error 2 := by
  rw [wordWriteArgs_cons, demand_pass (decide_eq_true h), demand_fault (b := decide (1 ≤ ([] : List Byte).length)) rfl]

theorem wordWriteArgs_odd {start : Byte} {rest : List Byte} (h : start.toNat < 16) (hodd : rest.length % 2 = 1) :
    wordWriteArgs (start :: rest) = .error (rest.length + 2) := by
  rw [wordWriteArgs_cons, demand_pass (decide_eq_true h), demand_pass (decide_eq_true (by omega)),
    demand_fault (decide_eq_false (by omega))]

theorem wordWriteArgs_beyond {start : Byte} {rest : List Byte} (h : start.toNat < 16) (hsome : rest ≠ []) (heven : rest.length % 2 = 0)
    (hbeyond : 16 < start.toNat + rest.length / 2) : wordWriteArgs (start :: rest) = .error (2 + 2 * (16 - start.toNat)) := by
  have hlength : 1 ≤ rest.length := List.length_pos_iff.2 hsome
  rw [wordWriteArgs_cons, demand_pass (decide_eq_true h), demand_pass (decide_eq_true hlength), demand_pass (decide_eq_true heven),
    demand_fault (decide_eq_false (by omega))]
  exact congrArg Except.error (by omega)

theorem wordWriteArgs_ok {first : Nat} {xs : List Half} (hsome : xs ≠ []) (hin : first + xs.length ≤ 16) :
    wordWriteArgs (byteOf first :: xs.flatMap halfBytes) = .ok (first, xs) := by
  have hlength : 1 ≤ xs.length := List.length_pos_iff.2 hsome
  have hfirst : (byteOf first).toNat = first := byteOf_small (by omega)
  rw [wordWriteArgs_cons, hfirst, length_flatMap_halfBytes, wordsOf_halfBytes, demand_pass (decide_eq_true (by omega)),
    demand_pass (decide_eq_true (by omega)), demand_pass (decide_eq_true (by omega)), demand_pass (decide_eq_true (by omega))]

theorem writeWords_get (first : Nat) (xs : List Half) (words : Vector Half 16) (i : Fin 16) :
    (writeWords first xs words)[i] = if first ≤ i.val then (xs[i.val - first]?).getD words[i] else words[i] := by
  simp [writeWords]

/-! ## The word notice (R187 to R189) -/

/-- The notice flag of a port plays no part in an offer. -/
theorem offer_setNotice (now bt : Nat) (r : PortCounter) (t : Telegram) (q : PortState) (b : Bool) :
    { q.offer now bt r t with noticePending := b } = ({ q with noticePending := b } : PortState).offer now bt r t := by
  have hroom : ({ q with noticePending := b } : PortState).hasRoom = q.hasRoom := rfl
  unfold PortState.offer
  rw [hroom]
  split
  · simp only [PortState.take]
    split
    · cases q.localQ <;> simp
    · rfl
  · rfl

/-- No notice: one is pending, no station is set, or the line is DOWN (R188). -/
theorem wordNotice_silent {p : Port} {s : State} (h : (s.port p.other).noticePending = true ∨
    s.settings.noticeStation p.other = none ∨ (s.port p.other).line = .down) : wordNotice p s = s := by
  unfold wordNotice
  dsimp only
  by_cases hpending : (s.port p.other).noticePending = true
  · rw [if_pos hpending]
  · rw [if_neg hpending]
    cases hstation : s.settings.noticeStation p.other with
    | none => rfl
    | some station =>
      have hdown := (h.resolve_left hpending).resolve_left (by rw [hstation]; exact Option.some_ne_none _)
      exact if_pos hdown

/-- Otherwise a notice is offered, or counted as dropped where the Local Queue is full (R188, R189). -/
theorem wordNotice_offers {p : Port} {s : State} {station : Byte} (hpending : (s.port p.other).noticePending = false)
    (hstation : s.settings.noticeStation p.other = some station) (hline : (s.port p.other).line = .up) :
    wordNotice p s = if Config.localCapacity ≤ (s.port p.other).localQ.length then bump p.other .noticesDropped s
      else (offer p.other .noticesDropped
          (ownTelegram s .note station 0 (wordPayload (noticeWord p) s.words[noticeWord p])) s).onPort p.other
        fun q => { q with noticePending := true } := by
  have hidle : ¬(s.port p.other).noticePending = true := by rw [hpending]; exact Bool.false_ne_true
  have hup : ¬(s.port p.other).line = .down := by rw [hline]; decide
  unfold wordNotice
  dsimp only
  rw [if_neg hidle, hstation]
  exact if_neg hup

theorem wordNotice_full {p : Port} {s : State} {station : Byte} (hpending : (s.port p.other).noticePending = false)
    (hstation : s.settings.noticeStation p.other = some station) (hline : (s.port p.other).line = .up)
    (hfull : 4 ≤ (s.port p.other).localQ.length) : wordNotice p s = bump p.other .noticesDropped s := by
  have hcapacity : Config.localCapacity ≤ (s.port p.other).localQ.length := hfull
  rw [wordNotice_offers hpending hstation hline, if_pos hcapacity]

/-- The notice is placed, and is pending from then on (R188, R189). -/
theorem wordNotice_placed {p : Port} {s : State} {station : Byte} (hpending : (s.port p.other).noticePending = false)
    (hstation : s.settings.noticeStation p.other = some station) (hline : (s.port p.other).line = .up)
    (hroom : (s.port p.other).localQ.length < 4) :
    wordNotice p s = s.setPort p.other (({ s.port p.other with noticePending := true } : PortState).offer s.now (byteTime s.sampled.rts)
      .noticesDropped (ownTelegram s .note station 0 (wordPayload (noticeWord p) s.words[noticeWord p]))) := by
  have hcapacity : ¬Config.localCapacity ≤ (s.port p.other).localQ.length := Nat.not_le.2 hroom
  rw [wordNotice_offers hpending hstation hline, if_neg hcapacity, ← offer_setNotice]
  simp [offer_port, State.onPort]

/-- Settles O59: the faults of its parameters, the writer's side, and the cases of the notice. -/
theorem wordWriteWritesAndNotifies : Obligations.WordWriteWritesAndNotifies := by
  intro w p h s hh u faults
  have hfaults : ∀ args pos, wordWriteArgs args = .error pos → faults args pos := fun args pos hargs ha =>
    order_badParam (k := .wordWrite) hh ha (by simp only [runOrder, runWordWrite, hargs])
  have hother : u.port p.other = s.port p.other := arrived_port_other w p s
  have hsettings : u.settings = s.settings := arrived_settings w p s
  have hstation : u.station = s.station := arrived_station w p s
  have hwords : u.words = s.words := arrived_words w p s
  refine ⟨⟨hfaults _ _ rfl, fun start rest hstart => hfaults _ _ (wordWriteArgs_start rest hstart), fun start rest hstart =>
    ⟨?_, fun hodd => hfaults _ _ (wordWriteArgs_odd hstart hodd),
      fun hsome heven hbeyond => hfaults _ _ (wordWriteArgs_beyond hstart hsome heven hbeyond)⟩⟩, ?_⟩
  · rintro rfl
    exact hfaults _ _ (wordWriteArgs_empty hstart)
  intro first xs args ha hsome hin own notice
  have hargs : wordWriteArgs args = .ok (first, xs) := wordWriteArgs_ok hsome hin
  have hown : own ↔ ownsWords p first xs.length = true := by cases p <;> simp [own, ownsWords]
  have hnotice : notice ↔ first = (noticeWord p).val := by cases p <;> exact Iff.rfl
  refine ⟨fun hforeign => ?_, fun howner => ?_⟩
  · have hruns : runOrder .wordWrite p h args u = .answered .denied 0 [] u := by
      simp only [runOrder, runWordWrite, hargs]
      rw [if_neg fun howns => hforeign (hown.2 howns)]
    exact order_answers .wordWrite w p h args s hh ha hruns (by decide)
  · refine ⟨writeWords first xs s.words, fun i => ⟨fun hout => ?_, fun x hle hx => ?_⟩, ?_⟩
    · rw [writeWords_get]
      split
      · rw [List.getElem?_eq_none (by omega)]
        rfl
      · rfl
    · rw [writeWords_get, if_pos hle, hx]
      rfl
    intro written toward answer
    have hanswer : ∀ v, (if first = (noticeWord p).val then wordNotice p written else written) = v → answer v := fun v hv =>
      order_answers .wordWrite w p h args s hh ha (by
        simp only [runOrder, runWordWrite, hargs]
        rw [if_pos (hown.1 howner), hwords]
        exact congrArg (doneWith xs.length []) hv) (by decide)
    have htoward : written.port p.other = toward := hother
    have hstations : written.settings.noticeStation p.other = s.settings.noticeStation p.other := by rw [← hsettings]
    refine ⟨fun hsilent => hanswer _ ?_, fun station hnotified hpending hto hup => ⟨fun hfull => hanswer _ ?_, fun hroom => ?_⟩⟩
    · by_cases hfirst : first = (noticeWord p).val
      · rw [if_pos hfirst]
        refine wordNotice_silent ?_
        rw [htoward, hstations]
        exact hsilent.resolve_left (not_not_intro (hnotice.2 hfirst))
      · exact if_neg hfirst
    · rw [if_pos (hnotice.1 hnotified)]
      exact wordNotice_full (station := station) (by rw [htoward, hpending]) (by rw [hstations, hto]) (by rw [htoward, hup])
        (by rw [htoward]; exact hfull)
    · have hfirst := hnotice.1 hnotified
      obtain ⟨x, rest, rfl⟩ := List.exists_cons_of_ne_nil hsome
      have hword : written.words[noticeWord p] = x := by
        simp [written, writeWords, hfirst]
      have htelegram : ownTelegram written .note station 0 (wordPayload (noticeWord p) written.words[noticeWord p]) =
          { dest := station, source := s.station, kind := .note, mark := false, reach := s.settings.answerReach, tag := 0,
            payload := [0x01, byteOf first] ++ halfBytes x } := by
        rw [hword, hfirst, ← hsettings, ← hstation]
        rfl
      refine ⟨_, offer_placed .., hanswer _ ?_⟩
      rw [if_pos hfirst, wordNotice_placed (station := station) (by rw [htoward, hpending]) (by rw [hstations, hto])
        (by rw [htoward, hup]) (by rw [htoward]; exact hroom), htelegram, htoward]
      rfl

/-! ## The entries of a STAGE_WRITE (R86, R170, R204) -/

theorem actionOf_ok {x : BitVec 2} (h : x ≠ 3) : ∃ a, actionOf x = some a := by
  have hsome : (actionOf x).isSome = true := by revert x; decide
  exact Option.isSome_iff_exists.1 hsome

theorem termsByte_ok (x : Byte) : x.extractLsb' 4 4 = 0 ↔ x.toNat < 16 := by
  revert x; decide

theorem groupOf_out {x : Byte} (h : ¬(x.toNat < 32 ∨ x = 255)) : groupOf x = none := by
  obtain ⟨hlarge, hpresent⟩ := not_or.1 h
  rw [groupOf, dif_neg hlarge, if_neg hpresent]

theorem groupOf_in {x : Byte} (h : x.toNat < 32 ∨ x = 255) : ∃ g, groupOf x = some g := by
  by_cases hsmall : x.toNat < 32
  · exact ⟨_, by rw [groupOf, dif_pos hsmall]⟩
  · exact ⟨none, by rw [groupOf, dif_neg hsmall, if_pos (h.resolve_left hsmall)]⟩

theorem profileOf_out {x : Byte} (h : ¬(x.toNat < 16 ∨ x = 255)) : profileOf x = none := by
  obtain ⟨hlarge, hpresent⟩ := not_or.1 h
  rw [profileOf, dif_neg hlarge, if_neg hpresent]

theorem profileOf_in {x : Byte} (h : x.toNat < 16 ∨ x = 255) : ∃ n, profileOf x = some n := by
  by_cases hsmall : x.toNat < 16
  · exact ⟨_, by rw [profileOf, dif_pos hsmall]⟩
  · exact ⟨none, by rw [profileOf, dif_neg hsmall, if_pos (h.resolve_left hsmall)]⟩

/-- The decoding of nine bytes ends at the first that is out of its range (R86). -/
theorem decode_firstFault {b0 b1 b2 b3 b4 b5 b6 b7 b8 : Byte} {off : Nat} {x : Byte}
    (hx : [b0, b1, b2, b3, b4, b5, b6, b7, b8][off]? = some x) (hbad : ¬EntryByteOk off x)
    (hbelow : ∀ j < off, ∀ y, [b0, b1, b2, b3, b4, b5, b6, b7, b8][j]? = some y → EntryByteOk j y) :
    RuleEntry.decode b0 b1 b2 b3 b4 b5 b6 b7 b8 = .error off := by
  have haction : 0 < off → ∃ a, actionOf (b0.extractLsb' 3 2) = some a := fun h => actionOf_ok (hbelow 0 h b0 rfl)
  have hsourceLow : 1 < off → sourceByteOk b1 = true := fun h => hbelow 1 h b1 rfl
  have hsourceHigh : 2 < off → sourceByteOk b2 = true := fun h => hbelow 2 h b2 rfl
  have hdestLow : 3 < off → destByteOk b3 = true := fun h => (destByteOk_iff b3).2 (hbelow 3 h b3 rfl)
  have hdestHigh : 4 < off → destByteOk b4 = true := fun h => (destByteOk_iff b4).2 (hbelow 4 h b4 rfl)
  have hgroup : 6 < off → ∃ g, groupOf b6 = some g := fun h => groupOf_in (hbelow 6 h b6 rfl)
  have hprofile : 7 < off → ∃ n, profileOf b7 = some n := fun h => profileOf_in (hbelow 7 h b7 rfl)
  match off with
  | 0 =>
    obtain rfl : b0 = x := Option.some.inj hx
    have hthree : b0.extractLsb' 3 2 = 3 := not_not.1 hbad
    rw [RuleEntry.decode, hthree]
    rfl
  | 1 =>
    obtain rfl : b1 = x := Option.some.inj hx
    obtain ⟨a, ha⟩ := haction (by decide)
    have hout : sourceByteOk b1 = false := Bool.eq_false_iff.2 hbad
    simp only [RuleEntry.decode, ha, hout]
    rfl
  | 2 =>
    obtain rfl : b2 = x := Option.some.inj hx
    obtain ⟨a, ha⟩ := haction (by decide)
    have hout : sourceByteOk b2 = false := Bool.eq_false_iff.2 hbad
    simp only [RuleEntry.decode, ha, hsourceLow (by decide), hout]
    rfl
  | 3 =>
    obtain rfl : b3 = x := Option.some.inj hx
    obtain ⟨a, ha⟩ := haction (by decide)
    have hout : destByteOk b3 = false := Bool.eq_false_iff.2 fun h => hbad ((destByteOk_iff b3).1 h)
    simp only [RuleEntry.decode, ha, hsourceLow (by decide), hsourceHigh (by decide), hout]
    rfl
  | 4 =>
    obtain rfl : b4 = x := Option.some.inj hx
    obtain ⟨a, ha⟩ := haction (by decide)
    have hout : destByteOk b4 = false := Bool.eq_false_iff.2 fun h => hbad ((destByteOk_iff b4).1 h)
    simp only [RuleEntry.decode, ha, hsourceLow (by decide), hsourceHigh (by decide), hdestLow (by decide), hout]
    rfl
  | 5 => exact absurd trivial hbad
  | 6 =>
    obtain rfl : b6 = x := Option.some.inj hx
    obtain ⟨a, ha⟩ := haction (by decide)
    simp only [RuleEntry.decode, ha, hsourceLow (by decide), hsourceHigh (by decide), hdestLow (by decide), hdestHigh (by decide),
      groupOf_out hbad]
    rfl
  | 7 =>
    obtain rfl : b7 = x := Option.some.inj hx
    obtain ⟨a, ha⟩ := haction (by decide)
    obtain ⟨g, hg⟩ := hgroup (by decide)
    simp only [RuleEntry.decode, ha, hsourceLow (by decide), hsourceHigh (by decide), hdestLow (by decide), hdestHigh (by decide), hg,
      profileOf_out hbad]
    rfl
  | 8 =>
    obtain rfl : b8 = x := Option.some.inj hx
    obtain ⟨a, ha⟩ := haction (by decide)
    obtain ⟨g, hg⟩ := hgroup (by decide)
    obtain ⟨n, hn⟩ := hprofile (by decide)
    have hhigh : b8.extractLsb' 4 4 ≠ 0 := fun h => hbad ((termsByte_ok b8).1 h)
    simp only [RuleEntry.decode, ha, hsourceLow (by decide), hsourceHigh (by decide), hdestLow (by decide), hdestHigh (by decide), hg,
      hn, if_pos hhigh]
    rfl
  | off + 9 => exact absurd hx (by simp)

/-- Entries in range are read whole, and the reading goes on behind them (R86, R170). -/
theorem entriesFrom_append {start : Nat} {es : List RuleEntry} (hok : ∀ e ∈ es, EntryOk e) {k : Nat} (hcount : k + es.length ≤ 17)
    (hindex : start + k + es.length ≤ 129) (rest : List Byte) :
    entriesFrom start k (es.flatMap RuleEntry.encode ++ rest) =
      (entriesFrom start (k + es.length) rest).map fun xs => es ++ xs := by
  induction es generalizing k with
  | nil =>
    rw [List.flatMap_nil, List.nil_append, List.length_nil, Nat.add_zero]
    cases entriesFrom start k rest <;> rfl
  | cons e es ih =>
    rw [List.length_cons] at hcount hindex
    have hrest := ih (fun x hx => hok x (List.mem_cons_of_mem _ hx)) (k := k + 1) (by omega) (by omega)
    rw [List.flatMap_cons, encode_eq, List.append_assoc]
    simp only [List.cons_append, List.nil_append]
    rw [entriesFrom, if_neg (by omega), if_neg (by omega), decode_encode e (hok e List.mem_cons_self), hrest,
      show k + 1 + es.length = k + (e :: es).length by rw [List.length_cons]; omega]
    cases entriesFrom start (k + (e :: es).length) rest <;> rfl

/-- A seventeenth entry, one beyond index 127 or an incomplete one faults at its first byte (R86, R170). -/
theorem entriesFrom_fault {start n : Nat} {rest : List Byte} (hsome : rest ≠ []) (hn : n ≤ 16)
    (h : n = 16 ∨ start + n = 128 ∨ rest.length < 9) : entriesFrom start (n + 1) rest = .error (9 * n + 2) := by
  rw [entriesFrom.eq_def]
  split
  · exact absurd rfl hsome
  · simp only [List.length_cons] at h
    split
    · exact congrArg Except.error (by omega)
    · rw [if_pos (by omega)]
      exact congrArg Except.error (by omega)
  · split
    · exact congrArg Except.error (by omega)
    · exact congrArg Except.error (by omega)

/-- A whole entry faults at its first byte out of range (R86). -/
theorem entriesFrom_outOfRange {start n : Nat} {entry rest : List Byte} {off : Nat} {x : Byte} (hn : n < 16) (hin : start + n < 128)
    (hlength : entry.length = 9) (hx : entry[off]? = some x) (hbad : ¬EntryByteOk off x)
    (hbelow : ∀ j < off, ∀ y, entry[j]? = some y → EntryByteOk j y) :
    entriesFrom start (n + 1) (entry ++ rest) = .error (9 * n + 2 + off) := by
  match entry, hlength with
  | [b0, b1, b2, b3, b4, b5, b6, b7, b8], _ =>
    simp only [List.cons_append, List.nil_append]
    rw [entriesFrom, if_neg (by omega), if_neg (by omega), decode_firstFault hx hbad hbelow]
    exact congrArg Except.error (by omega)

/-- The checks of STAGE_WRITE after its first byte (R86, R170). -/
theorem stageWriteArgs_cons (start : Byte) (rest : List Byte) : stageWriteArgs (start :: rest) =
    (demand (decide (start.toNat < 128)) 1 >>= fun _ => demand (decide (2 ≤ (start :: rest).length)) 2 >>= fun _ =>
      entriesFrom start.toNat 1 rest >>= fun es => Except.ok (start.toNat, es)) :=
  rfl

theorem stageWriteArgs_entries {first : Nat} {rest : List Byte} (hfirst : first < 128) (hsome : rest ≠ []) :
    stageWriteArgs (byteOf first :: rest) = (entriesFrom first 1 rest).map fun es => (first, es) := by
  have hlength : 2 ≤ (byteOf first :: rest).length := Nat.succ_le_succ (List.length_pos_iff.2 hsome)
  rw [stageWriteArgs_cons, byteOf_small (by omega), demand_pass (decide_eq_true hfirst), demand_pass (decide_eq_true hlength)]
  cases entriesFrom first 1 rest <;> rfl

theorem writeEntries_kept {first : Nat} {es : List RuleEntry} (bank : RuleBank) {i : RuleIndex}
    (h : i.val < first ∨ first + es.length ≤ i.val) : (writeEntries first es bank)[i] = bank[i] := by
  simp only [writeEntries, Fin.getElem_fin, Vector.getElem_ofFn]
  split
  · rw [List.getElem?_eq_none (by omega)]
  · rfl

theorem writeEntries_written {first : Nat} {es : List RuleEntry} (bank : RuleBank) {i : RuleIndex} {e : RuleEntry}
    (h : first ≤ i.val) (he : es[i.val - first]? = some e) : (writeEntries first es bank)[i] = Checked.fresh e := by
  simp only [writeEntries, Fin.getElem_fin, Vector.getElem_ofFn]
  rw [if_pos h, he]

theorem flatMap_encode_ne_nil {es : List RuleEntry} (h : 1 ≤ es.length) : es.flatMap RuleEntry.encode ≠ [] := by
  obtain ⟨e, rest, rfl⟩ := List.exists_cons_of_length_pos h
  rw [List.flatMap_cons, encode_eq]
  exact List.cons_ne_nil _ _

/-- Settles O44: the entries in range are read whole; what stands behind them is written or faults. -/
theorem stageWriteReplacesEntries : Obligations.StageWriteReplacesEntries := by
  intro w p h s hh u faults
  have hfaults : ∀ args pos, stageWriteArgs args = .error pos → faults args pos := fun args pos hargs ha =>
    order_badParam (k := .stageWrite) hh ha (by simp only [runOrder, runStageWrite, hargs])
  refine ⟨hfaults _ _ rfl, fun start rest hstart => hfaults _ _ ?_, fun start hstart => hfaults _ _ ?_, ?_⟩
  · rw [stageWriteArgs_cons, demand_fault (decide_eq_false (by omega))]
  · rw [stageWriteArgs_cons, demand_pass (decide_eq_true hstart), demand_fault (b := decide (2 ≤ [start].length)) rfl]
  intro first es hok hcount hindex hfirst args
  have hentries : ∀ rest, entriesFrom first 1 (es.flatMap RuleEntry.encode ++ rest) =
      (entriesFrom first (es.length + 1) rest).map fun xs => es ++ xs := fun rest => by
    rw [entriesFrom_append hok (by omega) (by omega), Nat.add_comm]
  have hbehind : ∀ rest pos, rest ≠ [] → entriesFrom first (es.length + 1) rest = .error pos → faults (args ++ rest) pos := by
    intro rest pos hsome hrest
    refine hfaults _ _ ?_
    rw [List.cons_append, stageWriteArgs_entries hfirst (List.append_ne_nil_of_right_ne_nil _ hsome), hentries, hrest]
    rfl
  refine ⟨fun hsome ha => ?_, fun rest hsome hcase => hbehind _ _ hsome (entriesFrom_fault hsome hcount hcase), ?_⟩
  · have hargs : stageWriteArgs args = .ok (first, es) := by
      have hall := hentries []
      rw [List.append_nil] at hall
      rw [stageWriteArgs_entries hfirst (flatMap_encode_ne_nil hsome), hall, entriesFrom]
      exact congrArg (fun xs => Except.ok (first, xs)) (List.append_nil es)
    have hruns : runOrder .stageWrite p h args u = .answered .done (halfOfNat es.length) []
        (u.setBank u.stagingBank (writeEntries first es (u.bank u.stagingBank))) := by
      simp only [runOrder, runStageWrite, hargs, doneWith]
    exact ⟨_, fun i => ⟨writeEntries_kept _, fun e hle he => writeEntries_written _ hle he⟩,
      order_answers .stageWrite w p h args s hh ha hruns (by decide)⟩
  · rintro entry rest off hroom hin hlength ⟨x, hx, hbad⟩ hbelow
    rw [List.append_assoc]
    exact hbehind _ _ (List.append_ne_nil_of_left_ne_nil (List.ne_nil_of_length_pos (by omega)) _) (entriesFrom_outOfRange hroom hin hlength hx hbad hbelow)

end Sys2Proof.Proofs
end

section
/-! CONFIG_READ and CONFIG_WRITE (O42): the thirteen fields of the settings, read and written by a presence mask. -/

namespace Sys2Proof.Proofs

open Sys2Proof.Machine Sys2Proof.Laws Sys2Proof.Safety

set_option Elab.async false

/-! ## Settings with some fields taken from others (R162, R167) -/

/-- The field of a timeout class: the fifth to eighth, numbered from 0 (R166). -/
def classField (c : Fin 4) : Fin 13 := ⟨5 + c.val, by omega⟩

theorem classField_range (c : Fin 4) : 5 ≤ (classField c).val ∧ (classField c).val ≤ 8 := by
  simp only [classField]
  omega

/-- The settings whose picked fields are those of `x` and whose others are those of `old`. -/
def fieldsFrom (picked : Fin 13 → Bool) (x old : Settings) : Settings :=
  { actionDown := if picked 0 then x.actionDown else old.actionDown
    actionUp := if picked 1 then x.actionUp else old.actionUp
    groupDown := if picked 2 then x.groupDown else old.groupDown
    groupUp := if picked 3 then x.groupUp else old.groupUp
    requesterLimit := if picked 4 then x.requesterLimit else old.requesterLimit
    classMs := Vector.ofFn fun k : Fin 4 => if picked (classField k) then x.classMs[k] else old.classMs[k]
    access := if picked 9 then x.access else old.access
    noticeC := if picked 10 then x.noticeC else old.noticeC
    noticeF := if picked 11 then x.noticeF else old.noticeF
    answerReach := if picked 12 then x.answerReach else old.answerReach }

theorem chosenFields_eq (mask : Half) (x old : Settings) : chosenFields mask x old = fieldsFrom (fun k => mask.getLsbD k.val) x old :=
  rfl

theorem fieldsFrom_classMs (picked : Fin 13 → Bool) (x old : Settings) (k : Fin 4) :
    (fieldsFrom picked x old).classMs[k] = if picked (classField k) then x.classMs[k] else old.classMs[k] := by
  simp [fieldsFrom]

theorem fieldsFrom_none (x old : Settings) : fieldsFrom (fun _ => false) x old = old := by
  have hclasses : (fieldsFrom (fun _ => false) x old).classMs = old.classMs := Vector.ext fun i hi => by simp [fieldsFrom]
  calc fieldsFrom (fun _ => false) x old = { old with classMs := (fieldsFrom (fun _ => false) x old).classMs } := rfl
    _ = old := by rw [hclasses]

/-- Fields picked after others. -/
theorem fieldsFrom_fieldsFrom (picked before : Fin 13 → Bool) (x old : Settings) :
    fieldsFrom picked x (fieldsFrom before x old) = fieldsFrom (fun k => picked k || before k) x old := by
  have hpick {α : Type} (k : Fin 13) (new kept : α) : (if picked k then new else if before k then new else kept) =
      if (picked k || before k) = true then new else kept := by
    cases picked k <;> rfl
  have hclasses : (fieldsFrom picked x (fieldsFrom before x old)).classMs =
      (fieldsFrom (fun k => picked k || before k) x old).classMs := Vector.ext fun i hi => by
    simp only [fieldsFrom, Vector.getElem_ofFn, Fin.getElem_fin]
    exact hpick _ _ _
  simp only [fieldsFrom] at hclasses ⊢
  rw [hclasses]
  simp only [hpick]

/-- One field alone. -/
def only (k j : Fin 13) : Bool := decide (j = k)

/-- A one-byte field leaves the timeout classes. -/
theorem fieldsFrom_only_classMs {k : Fin 13} (hk : ¬(5 ≤ k.val ∧ k.val ≤ 8)) (x old : Settings) :
    (fieldsFrom (only k) x old).classMs = old.classMs := by
  refine Vector.ext fun i hi => ?_
  have hother : only k (classField ⟨i, hi⟩) = false := decide_eq_false fun h => hk (by rw [← h]; exact classField_range _)
  have hget := fieldsFrom_classMs (only k) x old ⟨i, hi⟩
  rw [hother] at hget
  exact hget

theorem fieldsFrom_only_class (k : Fin 4) (x old : Settings) :
    fieldsFrom (only (classField k)) x old = { old with classMs := old.classMs.set k x.classMs[k] } := by
  have hclasses : (fieldsFrom (only (classField k)) x old).classMs = old.classMs.set k x.classMs[k] := by
    refine Vector.ext fun i hi => ?_
    have hget := fieldsFrom_classMs (only (classField k)) x old ⟨i, hi⟩
    rw [Vector.getElem_set]
    by_cases hki : k.val = i
    · subst hki
      simpa [only] using hget
    · rw [if_neg hki]
      refine hget.trans (if_neg ?_)
      simp [only, classField, Ne.symm hki]
  rw [← hclasses]
  match k with
  | 0 => rfl
  | 1 => rfl
  | 2 => rfl
  | 3 => rfl

/-! ## One field (R161, R167, R206) -/

theorem defaultActionOf_code (a : DefaultAction) : defaultActionOf (defaultActionCode a) = some a := by
  cases a <;> rfl

theorem accessOf_code (a : FieldAccess) : accessOf (accessCode a) = some a := by
  cases a <;> rfl

theorem noticeOf_code {n : Option Byte} (h : ∀ x, n = some x → stationOk x = true) : noticeOf (stationCode n) = some n := by
  cases n with
  | none => rfl
  | some x => exact if_pos (h x rfl)

theorem reachByte_fields {r : BitVec 4} (h : r ≠ 0) :
    (1 ≤ (0#4 ++ r).toNat ∧ (0#4 ++ r).toNat ≤ 15) ∧ (0#4 ++ r).extractLsb' 0 4 = r := by
  revert r; decide

/-- The fields that are written in a code of their own (R206). -/
theorem fieldBytes_codes (x : Settings) :
    fieldBytes x 0 = [defaultActionCode x.actionDown] ∧ fieldBytes x 1 = [defaultActionCode x.actionUp] ∧
      fieldBytes x 2 = [groupCode x.groupDown] ∧ fieldBytes x 3 = [groupCode x.groupUp] ∧ fieldBytes x 9 = [accessCode x.access] ∧
      fieldBytes x 10 = [stationCode x.noticeC] ∧ fieldBytes x 11 = [stationCode x.noticeF] := by
  refine ⟨?_, ?_, ?_, ?_, ?_, ?_, ?_⟩ <;> rw [fieldBytes]
  · cases x.actionDown <;> rfl
  · cases x.actionUp <;> rfl
  · cases x.groupDown <;> rfl
  · cases x.groupUp <;> rfl
  · cases x.access <;> rfl
  · cases x.noticeC <;> rfl
  · cases x.noticeF <;> rfl

/-- The byte of a one-byte field writes that field and no other (R167). -/
theorem writeByteField_fieldBytes {s : State} {x : Settings} (hok : SettingsOk { s with settings := x }) {k : Fin 13}
    (hk : ¬(5 ≤ k.val ∧ k.val ≤ 8)) (old : Settings) :
    ∃ b, fieldBytes x k = [b] ∧ writeByteField k b old = some (fieldsFrom (only k) x old) := by
  obtain ⟨hlow, hhigh, -, hreach, hnoticeC, hnoticeF⟩ := hok
  obtain ⟨h0, h1, h2, h3, h9, h10, h11⟩ := fieldBytes_codes x
  have hclasses := fieldsFrom_only_classMs hk x old
  have hrest : fieldsFrom (only k) x old = { fieldsFrom (only k) x old with classMs := old.classMs } := by rw [← hclasses]
  rw [hrest]
  match k, hk with
  | 0, _ =>
    refine ⟨defaultActionCode x.actionDown, h0, ?_⟩
    simp only [writeByteField, defaultActionOf_code]
    rfl
  | 1, _ =>
    refine ⟨defaultActionCode x.actionUp, h1, ?_⟩
    simp only [writeByteField, defaultActionOf_code]
    rfl
  | 2, _ =>
    refine ⟨groupCode x.groupDown, h2, ?_⟩
    simp only [writeByteField, groupOf_groupCode]
    rfl
  | 3, _ =>
    refine ⟨groupCode x.groupUp, h3, ?_⟩
    simp only [writeByteField, groupOf_groupCode]
    rfl
  | 4, _ => exact ⟨x.requesterLimit, rfl, if_pos ⟨hlow, hhigh⟩⟩
  | 5, hk | 6, hk | 7, hk | 8, hk => exact absurd ⟨by decide, by decide⟩ hk
  | 9, _ =>
    refine ⟨accessCode x.access, h9, ?_⟩
    simp only [writeByteField, accessOf_code]
    rfl
  | 10, _ =>
    refine ⟨stationCode x.noticeC, h10, ?_⟩
    simp only [writeByteField, noticeOf_code hnoticeC]
    rfl
  | 11, _ =>
    refine ⟨stationCode x.noticeF, h11, ?_⟩
    simp only [writeByteField, noticeOf_code hnoticeF]
    rfl
  | 12, _ =>
    obtain ⟨hin, hvalue⟩ := reachByte_fields hreach
    refine ⟨0#4 ++ x.answerReach, rfl, (if_pos hin).trans ?_⟩
    rw [hvalue]
    rfl

/-- A byte out of the range of its field writes nothing (R161). -/
theorem writeByteField_out {k : Fin 13} (hk : ¬(5 ≤ k.val ∧ k.val ≤ 8)) {b : Byte} (hout : FieldOutOfRange k [b]) (old : Settings) :
    writeByteField k b old = none := by
  rw [FieldOutOfRange, if_neg hk] at hout
  obtain ⟨b', hb', hout⟩ := hout
  obtain rfl : b = b' := List.singleton_inj.1 hb'
  have haction (h : 1 < b.toNat) : defaultActionOf b = none := by
    rw [defaultActionOf, if_neg (by rintro rfl; exact absurd h (by decide)), if_neg (by rintro rfl; exact absurd h (by decide))]
  have hgroup (h : 31 < b.toNat ∧ b ≠ 255) : groupOf b = none := groupOf_out (not_or.2 ⟨by omega, h.2⟩)
  have hnotice (h : stationOk b = false ∧ b ≠ 255) : noticeOf b = none := by
    rw [noticeOf, sourceByteOk_eq, h.1, if_neg Bool.false_ne_true, if_neg h.2]
  have hzero (h : b = 0) : b.toNat = 0 := by rw [h]; rfl
  match k with
  | 0 => rw [writeByteField, haction hout]; rfl
  | 1 => rw [writeByteField, haction hout]; rfl
  | 2 => rw [writeByteField, hgroup hout]; rfl
  | 3 => rw [writeByteField, hgroup hout]; rfl
  | 4 =>
    have hlimit : b = 0 ∨ 16 < b.toNat := hout
    exact if_neg fun hin => hlimit.elim (fun h => absurd (hzero h) (by omega)) (by omega)
  | 5 | 6 | 7 | 8 => exact absurd ⟨by decide, by decide⟩ hk
  | 9 =>
    have haccess : 2 < b.toNat := hout
    have hnone : accessOf b = none := by
      rw [accessOf, if_neg (by rintro rfl; exact absurd haccess (by decide)), if_neg (by rintro rfl; exact absurd haccess (by decide)),
        if_neg (by rintro rfl; exact absurd haccess (by decide))]
    rw [writeByteField, hnone]
    rfl
  | 10 => rw [writeByteField, hnotice hout]; rfl
  | 11 => rw [writeByteField, hnotice hout]; rfl
  | 12 =>
    have hreach : b = 0 ∨ 15 < b.toNat := hout
    exact if_neg fun hin => hreach.elim (fun h => absurd (hzero h) (by omega)) (by omega)

/-! ## Fields read at their positions (R163, R167) -/

theorem halfAt_next {args seen rest : List Byte} {hi lo : Byte} {n : Nat} (hargs : args = seen ++ hi :: lo :: rest)
    (hn : n = seen.length + 1) : halfAt args n = .ok (halfOf hi lo) := by
  have hhi : byteAt args n = .ok hi := byteAt_next hargs hn
  have hlo : byteAt args (n + 1) = .ok lo :=
    byteAt_next (seen := seen ++ [hi]) (rest := lo :: rest) (by rw [hargs]; simp) (by simp [hn])
  rw [halfAt, hhi, hlo]
  rfl

theorem halfAt_missing {args seen : List Byte} {short : List Byte} {n : Nat} (hargs : args = seen ++ short) (hn : n = seen.length + 1)
    (hshort : short.length < 2) : halfAt args n = .error (seen.length + short.length + 1) := by
  match short, hshort with
  | [], _ =>
    have hhi : byteAt args n = .error n := byteAt_next hargs hn
    rw [halfAt, hhi, hn]
    rfl
  | [hi], _ =>
    have hhi : byteAt args n = .ok hi := byteAt_next hargs hn
    have hlo : byteAt args (n + 1) = .error (n + 1) :=
      byteAt_next (seen := seen ++ [hi]) (rest := []) (by rw [hargs]; simp) (by simp [hn])
    rw [halfAt, hhi, hlo, hn]
    rfl

/-- A timeout-class field, by its class. -/
theorem class_of_field {k : Fin 13} (hk : 5 ≤ k.val ∧ k.val ≤ 8) : ∃ c : Fin 4, k = classField c :=
  ⟨⟨k.val - 5, by omega⟩, Fin.ext (by simp only [classField]; omega)⟩

theorem fieldBytes_class (x : Settings) (c : Fin 4) :
    fieldBytes x (classField c) = [x.classMs[c].extractLsb' 8 8, x.classMs[c].extractLsb' 0 8] := by
  match c with
  | 0 | 1 | 2 | 3 => rfl

/-- The two bytes of a class are read as its value, at the field's position (R163, R167). -/
theorem readField_class {args : List Byte} {c : Fin 4} {pos : Nat} {v : Half} (st : Settings) (hread : halfAt args pos = .ok v) :
    readField args (classField c) pos st =
      (writeClassField c v st).elim (.error pos) fun st' => .ok (st', pos + 2) := by
  have hclass : (⟨(classField c).val - 5, by simp [classField]⟩ : Fin 4) = c := Fin.ext (by simp [classField])
  rw [readField, dif_pos (classField_range c), hread]
  simp only [hclass]
  cases h : writeClassField c v st <;> (simp only [Bind.bind, Except.bind, h]; rfl)

theorem readField_byte {args : List Byte} {k : Fin 13} (hk : ¬(5 ≤ k.val ∧ k.val ≤ 8)) {pos : Nat} {b : Byte} (st : Settings)
    (hread : byteAt args pos = .ok b) :
    readField args k pos st = (writeByteField k b st).elim (.error pos) fun st' => .ok (st', pos + 1) := by
  rw [readField, dif_neg hk, hread]
  cases h : writeByteField k b st <;> (simp only [Bind.bind, Except.bind, h]; rfl)

/-- The bytes of a field are read into that field (R167). -/
theorem readField_reads {s : State} {x : Settings} (hok : SettingsOk { s with settings := x }) {args seen rest : List Byte} {k : Fin 13}
    {pos : Nat} (hargs : args = seen ++ fieldBytes x k ++ rest) (hpos : pos = seen.length + 1) (st : Settings) :
    readField args k pos st = .ok (fieldsFrom (only k) x st, (seen ++ fieldBytes x k).length + 1) := by
  by_cases hk : 5 ≤ k.val ∧ k.val ≤ 8
  · obtain ⟨c, rfl⟩ := class_of_field hk
    obtain ⟨-, -, hclass, -⟩ := hok
    rw [fieldBytes_class] at hargs ⊢
    have hread := halfAt_next (hargs.trans (List.append_assoc ..)) hpos
    have hwrite : writeClassField c x.classMs[c] st = some (fieldsFrom (only (classField c)) x st) := by
      rw [writeClassField, if_neg (hclass c), fieldsFrom_only_class]
    rw [readField_class st hread, halfOf_bytes, hwrite]
    simp [hpos]
  · obtain ⟨b, hb, hwrite⟩ := writeByteField_fieldBytes hok hk st
    rw [hb] at hargs ⊢
    have hread : byteAt args pos = .ok b := byteAt_next (rest := b :: rest) (hargs.trans (by simp)) hpos
    rw [readField_byte hk st hread, hwrite]
    simp [hpos]

theorem fieldBytes_length (x : Settings) (k : Fin 13) : (fieldBytes x k).length = if 5 ≤ k.val ∧ k.val ≤ 8 then 2 else 1 := by
  match k with
  | 0 | 1 | 2 | 3 | 4 | 5 | 6 | 7 | 8 | 9 | 10 | 11 | 12 => rfl

/-- A missing byte of a field faults at its position (R163). -/
theorem readField_missing {x : Settings} {args seen short : List Byte} {k : Fin 13} {pos : Nat} (hargs : args = seen ++ short)
    (hpos : pos = seen.length + 1) (hshort : short.length < (fieldBytes x k).length) (st : Settings) :
    readField args k pos st = .error (seen.length + short.length + 1) := by
  rw [fieldBytes_length] at hshort
  by_cases hk : 5 ≤ k.val ∧ k.val ≤ 8
  · rw [if_pos hk] at hshort
    rw [readField, dif_pos hk, halfAt_missing hargs hpos hshort]
    rfl
  · rw [if_neg hk, Nat.lt_one_iff, List.length_eq_zero_iff] at hshort
    subst hshort
    have hread : byteAt args pos = .error pos := byteAt_next hargs hpos
    rw [readField, dif_neg hk, hread, hpos]
    rfl

/-- A value out of its field's range faults at its first byte (R161, R163). -/
theorem readField_out {args seen bad rest : List Byte} {k : Fin 13} {pos : Nat} (hargs : args = seen ++ bad ++ rest)
    (hpos : pos = seen.length + 1) (hout : FieldOutOfRange k bad) (st : Settings) : readField args k pos st = .error pos := by
  by_cases hk : 5 ≤ k.val ∧ k.val ≤ 8
  · have hbad : bad = [0, 0] := by rwa [FieldOutOfRange, if_pos hk] at hout
    obtain ⟨c, rfl⟩ := class_of_field hk
    subst hbad
    have hread := halfAt_next (hargs.trans (List.append_assoc ..)) hpos
    rw [readField_class st hread]
    rfl
  · have hbyte : ∃ b, bad = [b] := by
      rw [FieldOutOfRange, if_neg hk] at hout
      obtain ⟨b, hb, -⟩ := hout
      exact ⟨b, hb⟩
    obtain ⟨b, rfl⟩ := hbyte
    have hread : byteAt args pos = .ok b := byteAt_next (rest := b :: rest) (hargs.trans (by simp)) hpos
    rw [readField_byte hk st hread, writeByteField_out hk hout]
    rfl

/-- The bytes of several fields are read into those fields, and the reading goes on behind them (R167). -/
theorem readFields_append {s : State} {x : Settings} (hok : SettingsOk { s with settings := x }) {args rest : List Byte}
    (ks next : List (Fin 13)) {seen : List Byte} {pos : Nat} (hargs : args = seen ++ ks.flatMap (fieldBytes x) ++ rest)
    (hpos : pos = seen.length + 1) (st : Settings) :
    readFields args (ks ++ next) pos st =
      readFields args next ((seen ++ ks.flatMap (fieldBytes x)).length + 1) (fieldsFrom (fun k => decide (k ∈ ks)) x st) := by
  induction ks generalizing seen pos st with
  | nil => simp [fieldsFrom_none, hpos]
  | cons k ks ih =>
    have hargs' : args = seen ++ fieldBytes x k ++ (ks.flatMap (fieldBytes x) ++ rest) := by rw [hargs]; simp
    have hmem : (fun j => decide (j ∈ ks) || only k j) = fun j => decide (j ∈ k :: ks) := funext fun j => by
      simp [only, Bool.or_comm]
    rw [List.cons_append, readFields, readField_reads hok hargs' hpos]
    refine (ih (seen := seen ++ fieldBytes x k) (by rw [hargs']; simp) rfl _).trans ?_
    rw [fieldsFrom_fieldsFrom, hmem, List.flatMap_cons, List.append_assoc]

/-! ## The parameters of CONFIG_WRITE (R163, R167) -/

/-- The fields below number `n` that a mask names, in field order (R167). -/
def namedBelow (mask : Half) (n : Nat) : List (Fin 13) :=
  (List.finRange 13).filter fun k => mask.getLsbD k.val && decide (k.val < n)

theorem namedBytes_eq (mask : Half) (n : Nat) (x : Settings) : namedBytes mask n x = (namedBelow mask n).flatMap (fieldBytes x) := rfl

theorem namedBelow_all (mask : Half) : namedBelow mask 13 = namedFields mask :=
  List.filter_congr fun k _ => by rw [decide_eq_true k.isLt, Bool.and_true]

/-- The named fields, cut at one of them. -/
theorem namedFields_cut {mask : Half} {k : Fin 13} (hk : mask.getLsbD k.val = true) :
    ∃ after, namedFields mask = namedBelow mask k.val ++ k :: after := by
  obtain ⟨xs, ys, hsplit, hbelow, habove⟩ := finRange_cut k
  have hxs : namedBelow mask k.val = xs.filter fun j => mask.getLsbD j.val := by
    rw [namedBelow, hsplit, List.filter_append, List.filter_cons_of_neg (by simp),
      (List.filter_eq_nil_iff (l := ys)).2 fun j hj => by simpa using fun _ => le_of_lt (habove j hj), List.append_nil]
    exact List.filter_congr fun j hj => by rw [decide_eq_true (Fin.lt_def.1 ((hbelow j).1 hj)), Bool.and_true]
  exact ⟨ys.filter fun j => mask.getLsbD j.val, by
    rw [hxs, namedFields, hsplit, List.filter_append, List.filter_cons_of_pos (p := fun j : Fin 13 => mask.getLsbD j.val) hk]⟩

theorem fieldsFrom_namedFields (mask : Half) (x old : Settings) :
    fieldsFrom (fun k => decide (k ∈ namedFields mask)) x old = chosenFields mask x old := by
  rw [chosenFields_eq]
  refine congrArg (fun picked => fieldsFrom picked x old) (funext fun k => ?_)
  simp [namedFields]

/-- The checks of CONFIG_WRITE after its mask (R167). -/
theorem configWriteArgs_cons (hi lo : Byte) (rest : List Byte) (st : Settings) : configWriteArgs (hi :: lo :: rest) st =
    (demand (decide ((halfOf hi lo).toNat < 2 ^ 13)) 1 >>= fun _ =>
      readFields (hi :: lo :: rest) (namedFields (halfOf hi lo)) 3 st >>= fun r =>
      demand (decide ((hi :: lo :: rest).length < r.2)) r.2 >>= fun _ =>
      Except.ok (r.1, (namedFields (halfOf hi lo)).length)) :=
  rfl

theorem configWriteArgs_mask {mask : Half} (hmask : mask.toNat < 8192) (rest : List Byte) (st : Settings) :
    configWriteArgs (halfBytes mask ++ rest) st =
      (readFields (halfBytes mask ++ rest) (namedFields mask) 3 st >>= fun r =>
        demand (decide ((halfBytes mask ++ rest).length < r.2)) r.2 >>= fun _ => Except.ok (r.1, (namedFields mask).length)) := by
  have hfits : mask.toNat < 2 ^ 13 := hmask
  have hcons := configWriteArgs_cons (mask.extractLsb' 8 8) (mask.extractLsb' 0 8) rest st
  rw [halfOf_bytes, demand_pass (decide_eq_true hfits)] at hcons
  exact hcons

/-- Every named field's bytes, and then `rest`: the fields are written, and a surplus byte faults (R163, R167). -/
theorem configWriteArgs_fields {s : State} {x : Settings} (hok : SettingsOk { s with settings := x }) {mask : Half}
    (hmask : mask.toNat < 8192) (rest : List Byte) (st : Settings) :
    configWriteArgs (halfBytes mask ++ namedBytes mask 13 x ++ rest) st =
      if rest = [] then .ok (chosenFields mask x st, (namedFields mask).length)
      else .error ((halfBytes mask ++ namedBytes mask 13 x).length + 1) := by
  have hfields := readFields_append hok (namedFields mask) [] (seen := halfBytes mask) (rest := rest) rfl rfl st
  rw [fieldsFrom_namedFields, List.append_nil, ← namedBelow_all, ← namedBytes_eq, namedBelow_all] at hfields
  have hread : readFields (halfBytes mask ++ namedBytes mask 13 x ++ rest) (namedFields mask) 3 st =
      .ok (chosenFields mask x st, (halfBytes mask ++ namedBytes mask 13 x).length + 1) := hfields
  rw [List.append_assoc, configWriteArgs_mask hmask, ← List.append_assoc, hread]
  cases rest with
  | nil => exact demand_pass (decide_eq_true (by rw [List.append_nil]; exact Nat.lt_succ_self _))
  | cons y rest => exact demand_fault (decide_eq_false (by rw [List.length_append, List.length_cons]; omega))

/-- A named field that faults after the bytes of those below it (R163, R167). -/
theorem configWriteArgs_fieldFault {s : State} {x : Settings} (hok : SettingsOk { s with settings := x }) {mask : Half}
    (hmask : mask.toNat < 8192) {k : Fin 13} (hk : mask.getLsbD k.val = true) {rest : List Byte} {pos : Nat}
    (hfault : ∀ st, readField (halfBytes mask ++ namedBytes mask k.val x ++ rest) k
      ((halfBytes mask ++ namedBytes mask k.val x).length + 1) st = .error pos) (st : Settings) :
    configWriteArgs (halfBytes mask ++ namedBytes mask k.val x ++ rest) st = .error pos := by
  obtain ⟨after, hcut⟩ := namedFields_cut hk
  have hfields := readFields_append hok (namedBelow mask k.val) (k :: after) (seen := halfBytes mask) (rest := rest) rfl rfl st
  rw [← namedBytes_eq, ← hcut, readFields, hfault] at hfields
  have hread : readFields (halfBytes mask ++ namedBytes mask k.val x ++ rest) (namedFields mask) 3 st = .error pos := hfields
  rw [List.append_assoc, configWriteArgs_mask hmask, ← List.append_assoc, hread]
  rfl

theorem toList_four (v : Vector Half 4) : v.toList = [v[0], v[1], v[2], v[3]] := by
  refine List.ext_getElem (by simp) fun i hi _ => ?_
  rw [Vector.length_toList] at hi
  match i with
  | 0 | 1 | 2 | 3 => simp

theorem settingsBytes_eq (x : Settings) : settingsBytes x = x.bytes := by
  obtain ⟨h0, h1, h2, h3, h9, h10, h11⟩ := fieldBytes_codes x
  have hfields : List.finRange 13 = [0, 1, 2, 3, 4, 5, 6, 7, 8, 9, 10, 11, 12] := rfl
  rw [settingsBytes, hfields, Settings.bytes, toList_four]
  simp only [List.flatMap_cons, List.flatMap_nil, h0, h1, h2, h3, h9, h10, h11]
  rfl

/-- Settles O42: the record as it stands; the fields that are read, and where their reading faults. -/
theorem settingsAreReadAndWritten : Obligations.SettingsAreReadAndWritten := by
  intro w p h s hh u faults
  have hsettings : u.settings = s.settings := arrived_settings w p s
  have hfaults : ∀ args pos, (∀ st, configWriteArgs args st = .error pos) → faults args pos := fun args pos hargs ha =>
    order_badParam (k := .configWrite) hh ha (by simp only [runOrder, runConfigWrite, hargs])
  refine ⟨fun ha => ?_, ?_, hfaults _ _ fun _ => rfl, fun hi => hfaults _ _ fun _ => rfl, fun hi lo rest hhigh => hfaults _ _ fun st => ?_⟩
  · have hruns : runOrder .configRead p h [] u = .answered .done 0 (settingsBytes s.settings) u := by
      simp only [runOrder, runConfigRead, noArgs_nil, doneWith, hsettings, settingsBytes_eq]
      rfl
    exact order_answers .configRead w p h [] s hh ha hruns (by decide)
  · intro mask x hmask hok args
    refine ⟨fun ha => ?_, fun y rest => hfaults _ _ fun st => ?_, fun k hk => ⟨fun short hshort => hfaults _ _ fun st => ?_,
      fun bad rest hout => hfaults _ _ fun st => ?_⟩⟩
    · have hargs : configWriteArgs args s.settings =
          .ok (chosenFields mask x s.settings, (List.finRange 13).countP fun k => mask.getLsbD k.val) := by
        have hfields := configWriteArgs_fields hok hmask [] s.settings
        rw [List.append_nil, if_pos rfl, namedFields, ← List.countP_eq_length_filter] at hfields
        exact hfields
      have hruns : runOrder .configWrite p h args u =
          .answered .done (halfOfNat ((List.finRange 13).countP fun k => mask.getLsbD k.val)) []
            { u with settings := chosenFields mask x s.settings } := by
        simp only [runOrder, runConfigWrite, hsettings, hargs, doneWith]
      exact order_answers .configWrite w p h args s hh ha hruns (by decide)
    · rw [configWriteArgs_fields hok hmask, if_neg (List.cons_ne_nil _ _)]
    · exact configWriteArgs_fieldFault hok hmask hk (fun st => readField_missing rfl rfl hshort st) st
    · have hsplit : halfBytes mask ++ namedBytes mask k.val x ++ bad ++ rest =
          halfBytes mask ++ namedBytes mask k.val x ++ (bad ++ rest) := List.append_assoc ..
      rw [hsplit]
      exact configWriteArgs_fieldFault hok hmask hk (fun st => readField_out hsplit.symm rfl hout st) st
  · have hlarge : 8192 ≤ (halfOf hi lo).toNat := by
      rw [halfOf, BitVec.toNat_append, Nat.shiftLeft_eq]
      exact le_trans (by omega) (Nat.left_le_or ..)
    rw [configWriteArgs_cons, demand_fault (decide_eq_false (by omega))]

end Sys2Proof.Proofs
end

section
/-! The tests before an order's execution (O38), for every order: those before it (R143, R145) and tests 2 to 5 (R144 to R149). -/

namespace Sys2Proof.Proofs

open Sys2Proof.Machine Sys2Proof.Laws Sys2Proof.Safety

set_option Elab.async false

/-! ## Orders that the tests refuse -/

/-- A delivered order is taken by the Order Engine (R2, R8). -/
theorem exec_order_heard {k : OrderCode} {w : Since} {p : Port} {h : OrderHead} {args : List Byte} {s : State} (hh : Heard p h s) :
    exec (orderInstr k w p h args) s =
      .next (takeOrder p h (k.byte :: args) (bump p .goodReceived (dropAssembly p (lapse w s)))) := by
  rw [exec_orderInstr, orderRow, orderEnd_heard w p h _ s hh]

/-- At Port F under field access NONE an order leaves nothing but its counts (R143). -/
theorem order_closed {k : OrderCode} {w : Since} {h : OrderHead} {args : List Byte} {s : State} (hh : Heard .f h s)
    (hclosed : s.settings.access = .closed) :
    exec (orderInstr k w .f h args) s =
      .next ((lapse w s).onPort .f fun q => { (q.count .goodReceived 1).count .ordersRefused 1 with assembly := none }) := by
  have hkept : (bump .f .goodReceived (dropAssembly .f (lapse w s))).settings.access = .closed := by
    simpa [bump, dropAssembly] using hclosed
  rw [exec_order_heard hh, takeOrder_closed h _ _ hkept]
  simp only [bump, dropAssembly, onPort_onPort]
  rfl

/-- An order that is no repeat is answered with the status at which tests 2 to 5 refuse it, over its arrival alone (R144, R151). -/
theorem order_refused {k : OrderCode} {w : Since} {p : Port} {h : OrderHead} {args : List Byte} {s : State} (hh : Heard p h s)
    (hopen : p = .c ∨ s.settings.access ≠ .closed) (hnew : NotRepeat p h s) {status : Status}
    (htest : refusal p (some k) args (arrived w p s) = some status) (hdone : status ≠ .done) :
    Answers (orderInstr k w p h args) s p h k.byte status 0 [] (storable k.byte status) (arrived w p s) := by
  have hnone := repeatOf_arrived_none w p h s hnew
  have hcode : refusal p (orderFor k.byte) args (arrived w p s) = some status := by rwa [orderFor_byte]
  rw [← arrived_eq] at hnone hcode
  refine ⟨_, ?_, answerOrder_replied p h k.byte status 0 [] _ fun hrestart => hdone hrestart.2⟩
  rw [exec_order_heard hh, takeOrder_refused p h (k.byte :: args) _ status (not_closed_of_letIn w p s hopen) hnone hcode, arrived_eq]
  rfl

/-! ## Tests 2, 4 and 5 (R146, R148, R149) -/

/-- Test 2: a HALTED gate serves STATUS and RESTART alone (R146). -/
theorem refusal_halted {k : OrderCode} (p : Port) (args : List Byte) {u : State} (hgate : u.gate = .halted) (hstatus : k ≠ .status)
    (hrestart : k ≠ .restart) : refusal p (some k) args u = some .halted :=
  if_pos ⟨hgate, hstatus, hrestart⟩

/-- Behind test 2 the rights and then the Command Slot decide (R144). -/
theorem refusal_notHalted {k : OrderCode} (p : Port) (args : List Byte) {u : State}
    (hgate : u.gate = .serving ∨ k = .status ∨ k = .restart) :
    refusal p (some k) args u =
      if !hasRights p u.settings.access (k.cls args) then some .denied
      else if !slotServes u.slot.state k (k.cls args) then some .busy else none := by
  refine if_neg ?_
  rintro ⟨hhalted, hstatus, hrestart⟩
  rcases hgate with hserving | rfl | rfl
  · rw [hserving] at hhalted
    cases hhalted
  · exact hstatus rfl
  · exact hrestart rfl

/-- The rights of an order at a port that field access lets in (R148). -/
theorem hasRights_iff {p : Port} {access : FieldAccess} {c : OrderClass} (hopen : p = .c ∨ access ≠ .closed) :
    hasRights p access c = true ↔ p = .c ∨ access = .full ∨ c = .inquiry ∨ c = .word := by
  cases p with
  | c => simp [hasRights]
  | f =>
    have hne : access ≠ .closed := hopen.resolve_left (by decide)
    cases access with
    | closed => exact absurd rfl hne
    | inquire => simp [hasRights]
    | full => simp [hasRights]

/-- What the Command Slot serves, by its state (R149). -/
theorem slotServes_iff (slot : Slot) (k : OrderCode) (c : OrderClass) :
    slotServes slot.state k c = true ↔
      slot = .idle ∨ (slot.state = .validating ∧ c ≠ .change) ∨ (slot.state = .restarting ∧ k = .status) := by
  cases slot <;> simp [slotServes, Slot.state]

/-- Settles O38: the order is discarded or a repeat, or the test that refuses it is found by the gate, the rights and the slot. -/
theorem orderTestsInTheirOrder : Obligations.OrderTestsInTheirOrder := by
  intro k w p h args s hh c u admittedAtF served
  have hgate : u.gate = s.gate := arrived_gate w p s
  have hsettings : u.settings = s.settings := arrived_settings w p s
  have hslot : u.slot = s.slot := arrived_slot w p s
  refine ⟨?_, fun hopen => ⟨fun x hx hsource htag => ?_, fun hnew hhalted hstatus hrestart => ?_, fun hnew hpassed hf hdenied => ?_,
    fun hnew hpassed hrights hbusy => ?_⟩⟩
  · rintro rfl hclosed
    exact order_closed hh hclosed
  · obtain ⟨requester, tag, answer⟩ := x
    obtain rfl : requester = h.source := hsource
    obtain rfl : tag = h.tag := htag
    exact order_repeated k w p h args s answer hh hopen hx
  · exact order_refused hh hopen hnew (refusal_halted p args (hgate.trans hhalted) hstatus hrestart) (by decide)
  · have hno : hasRights p u.settings.access (k.cls args) = false := Bool.eq_false_iff.2 fun hyes => by
      rw [hsettings, hasRights_iff hopen, hf] at hyes
      exact hdenied (hyes.resolve_left (by decide))
    have htest : refusal p (some k) args u = some .denied := by
      rw [refusal_notHalted p args (hgate ▸ hpassed), hno]
      rfl
    exact order_refused hh hopen hnew htest (by decide)
  · have hyes : hasRights p u.settings.access (k.cls args) = true := by
      rw [hsettings]
      exact (hasRights_iff hopen).2 hrights
    have hno : slotServes u.slot.state k (k.cls args) = false := Bool.eq_false_iff.2 fun hserves => by
      rw [hslot, slotServes_iff] at hserves
      exact hbusy hserves
    have htest : refusal p (some k) args u = some .busy := by
      rw [refusal_notHalted p args (hgate ▸ hpassed), hyes, hno]
      rfl
    exact order_refused hh hopen hnew htest (by decide)

end Sys2Proof.Proofs
end
